-- ==== Sys2Proof/Word.lean ====
section
/-! DEFINITION. The word types of the block (00_scope.md rules R7, R10, R13, R14): bytes, 32-bit bus words and bit strings. -/

namespace Sys2Proof

/-- One byte of a buffer, one symbol, or one command code (R7, R90). -/
abbrev Byte := BitVec 8

/-- One 32-bit register value or bus word (R10). -/
abbrev Word := BitVec 32

/-- A bit string (R14): its first element is written leftmost; a code's element 0 is the edge taken at the root. -/
abbrev Bits := List Bool

/-- `ceil8(b) = (b + 7) div 8` (R13). -/
def ceil8 (b : Nat) : Nat := (b + 7) / 8

end Sys2Proof
end

