-- ==== Sys2Proof/Machine/Tables.lean ====
section
/-! DEFINITION. The engine's gated storage (10_state.md rules R33–R35, R40, R41, R43): frequency table, node arena, code table and payload descriptors, as one plain record. -/

namespace Sys2Proof.Machine

/-- One entry of the node arena (R41): the source's "tagged variant {Leaf{symbol, freq}, Internal{freq, left, right}}". -/
inductive Node where
  /-- KIND = LEAF: SYM and FREQ. -/
  | leaf (sym : Byte) (freq : BitVec 32)
  /-- KIND = INTERNAL: FREQ and the indices of exactly two children. -/
  | internal (freq : BitVec 32) (left right : BitVec 9)
  deriving DecidableEq, Repr, Inhabited

/-- `ROOT_R = 0x1FF`: the tree is empty; never a node index (R35). -/
abbrev noneIndex : BitVec 9 := 0x1FF#9

/-- The storage whose reads are gated by VALID bits (R48: unspecified after reset). -/
structure Tables where
  /-- FT_N, 9 bits, 0–256 (R40). -/
  ftN     : Fin 257
  /-- FT_SYM[0..255] (R40). -/
  ftSym   : Vector Byte 256
  /-- FT_CNT[0..255], 17 bits each (R40). -/
  ftCnt   : Vector (BitVec 17) 256
  /-- NODE[0..510] (R41). -/
  nodes   : Vector Node 511
  /-- NODECNT_R, 10 bits, 0–511 (R41). -/
  nodeCnt : Fin 512
  /-- ROOT_R, 9 bits (R35, R41). -/
  root    : BitVec 9
  /-- CT_PRESENT, CT_LEN and CT_CODE of every symbol (R43): `none` where CT_PRESENT[s] = 0; else the code, whose length
  is CT_LEN[s] (log 16). -/
  ct      : Vector (Option Bits) 256
  /-- PAD_R, 3 bits (R33). -/
  pad     : BitVec 3
  /-- BITLEN_R, 32 bits (R33). -/
  bitLen  : Word
  /-- PAYOFF_R (R34). -/
  payOff  : Word
  /-- PAYLEN_R (R34). -/
  payLen  : Word
  deriving DecidableEq, Repr, Inhabited

end Sys2Proof.Machine
end

