-- ==== Sys2Proof/Config.lean ====
section
/-! DEFINITION. What an implementation fixes (the capacity parameters of 00_scope.md rule R9) and the free values the spec leaves open (93_implementation_defined.md I5–I8): opaque constants, so no proof can see a value of theirs. -/

namespace Sys2Proof

/-- The two capacity parameters (R9, D9), named parameters of the model: a state carries them unchanged (R47). -/
structure Caps where
  /-- `MSG_CAP`, 1 ≤ MSG_CAP ≤ 2^20. -/
  msgCap  : Nat
  /-- `CONT_CAP`, 5 ≤ CONT_CAP ≤ 2^20. -/
  contCap : Nat
  deriving DecidableEq, Repr

/-- The defaults of R9: 65536 and 2^20. -/
def Caps.default : Caps := { msgCap := 65536, contCap := 1048576 }

/-- FREE VALUE (log 4; I6, I7): the byte an unwritten offset of a buffer holds, for each draw and offset. -/
opaque Config.bufByte : Nat → Nat → Byte

/-- FREE VALUE (log 3; I5): what one read of a hidden register or window returns while BUSY, for each draw. -/
opaque Config.busyRead : Nat → Word

/-- FREE VALUE (log 6; I8): the gated storage after a failing COUNT or READ_HDR and after a reset event, for each draw. -/
opaque Config.freeTables : Nat → Machine.Tables

/-- FREE VALUE (log 15): what stands at index 0x1FF, which names no node (R35); met only in states no run reaches. -/
opaque Config.noNode : Machine.Node

end Sys2Proof
end

