-- ==== Sys2Proof/Syntax.lean ====
section
/-! DEFINITION. The instruction set (00_scope.md rule R2, 30_encoding.md rule R95): the eleven commands. A command carries no immediate and no register field (R91). -/

namespace Sys2Proof

/-- One command per row of spec/opcode_table.json, in the table's order. -/
inductive Instr where
  /-- NOP, 0x00 (R190). -/
  | nop
  /-- COUNT, 0x01 (R131). -/
  | count
  /-- BUILD, 0x02 (R141). -/
  | build
  /-- GEN, 0x03 (R151). -/
  | gen
  /-- ENCODE, 0x04 (R163). -/
  | encode
  /-- WRITE_HDR, 0x05 (R171). -/
  | writeHdr
  /-- READ_HDR, 0x06 (R172). -/
  | readHdr
  /-- DECODE, 0x07 (R183). -/
  | decode
  /-- COMPRESS, 0x10 (R191). -/
  | compress
  /-- DECOMPRESS, 0x11 (R192). -/
  | decompress
  /-- INSPECT, 0x12 (R193). -/
  | inspect
  deriving DecidableEq, Repr

end Sys2Proof
end

