-- ==== Sys2Proof/WellFormed.lean ====
section
/-! DEFINITION. Well-formedness: the legal command codes (30_encoding.md rule R97), the commands (rule R91: no operands, so each is well formed) and the capacity parameters (00_scope.md rule R9). -/

namespace Sys2Proof

/-- R97: "0x00–0x07 and 0x10–0x12 are legal." -/
def legalCode (c : Byte) : Bool :=
  decide (c.toNat ≤ 0x07) || (decide (0x10 ≤ c.toNat) && decide (c.toNat ≤ 0x12))

/-- R91: no command has an operand to check. -/
def Instr.wf : Instr → Bool
  | .nop | .count | .build | .gen | .encode | .writeHdr | .readHdr | .decode | .compress | .decompress | .inspect => true

/-- R9: 1 ≤ MSG_CAP ≤ 2^20 and 5 ≤ CONT_CAP ≤ 2^20. -/
def Caps.wf (c : Caps) : Bool :=
  decide (1 ≤ c.msgCap) && decide (c.msgCap ≤ 1048576) && decide (5 ≤ c.contCap) && decide (c.contCap ≤ 1048576)

end Sys2Proof
end

