-- ==== Sys2Proof/Decode.lean ====
section
/-! DEFINITION. The command word's decoder and encoder (30_encoding.md rules R90, R95–R98), over the bytes of the 32-bit CMD value in the bus's little-endian lanes (20_memory.md rule R65). -/

namespace Sys2Proof

/-- Why bytes are no command. -/
inductive DecodeError where
  /-- The code is in 0x08–0x0F or 0x13–0xFF (R97). -/
  | illegalCode (opc : Byte)
  /-- Fewer than the four bytes of a CMD word (R90, R98: there is no other length). -/
  | tooShort
  deriving DecidableEq, Repr

/-- A row of rule R95's table. -/
structure OpcRow where
  opc   : Byte
  instr : Instr
  deriving DecidableEq, Repr

/-- Rule R95's table, row by row. -/
def opcRows : List OpcRow :=
  [ ⟨0x00, .nop⟩, ⟨0x01, .count⟩, ⟨0x02, .build⟩, ⟨0x03, .gen⟩, ⟨0x04, .encode⟩, ⟨0x05, .writeHdr⟩,
    ⟨0x06, .readHdr⟩, ⟨0x07, .decode⟩, ⟨0x10, .compress⟩, ⟨0x11, .decompress⟩, ⟨0x12, .inspect⟩ ]

/-- A code's command, or its rejection by name (R95, R97). -/
def decodeOpc (c : Byte) : Except DecodeError Instr :=
  match opcRows.find? (fun r => r.opc == c) with
  | some r => .ok r.instr
  | none   => .error (.illegalCode c)

/-- `OPC = value[7:0]` of a CMD word (R90). -/
def opcOf (v : Word) : Byte := v.extractLsb' 0 8

/-- A CMD word's command: bits 31:8 are ignored (R96). -/
def decodeWord (v : Word) : Except DecodeError Instr := decodeOpc (opcOf v)

/-- Four little-endian lanes as one word (R65). -/
def wordOfLanes (b0 b1 b2 b3 : Byte) : Word := b3 ++ b2 ++ b1 ++ b0

/-- The four little-endian lanes of a word (R60: byte lane b is bits 8b+7:8b). -/
def lanesOfWord (v : Word) : List Byte :=
  [v.extractLsb' 0 8, v.extractLsb' 8 8, v.extractLsb' 16 8, v.extractLsb' 24 8]

/-- The decoder over bytes: one CMD word and the rest, or a rejection by name. -/
def decodeBytes : List Byte → Except DecodeError (Instr × List Byte)
  | b0 :: b1 :: b2 :: b3 :: rest =>
    match decodeWord (wordOfLanes b0 b1 b2 b3) with
    | .ok i    => .ok (i, rest)
    | .error e => .error e
  | _ => .error .tooShort

/-- A command's code (R95). -/
def opcode : Instr → Byte
  | .nop        => 0x00
  | .count      => 0x01
  | .build      => 0x02
  | .gen        => 0x03
  | .encode     => 0x04
  | .writeHdr   => 0x05
  | .readHdr    => 0x06
  | .decode     => 0x07
  | .compress   => 0x10
  | .decompress => 0x11
  | .inspect    => 0x12

/-- A command's CMD word: bits 31:8 written as 0, as R96 says software should. -/
def encode (i : Instr) : Word := (opcode i).setWidth 32

/-- A command's CMD word as the four bytes of the bus write. -/
def encodeBytes (i : Instr) : List Byte := lanesOfWord (encode i)

/-- The CMD word whose low `nbits` bits are those of `w`, every bit above them 0. -/
def tableWord (nbits w : Nat) : Word := BitVec.ofNat 32 (w % 2 ^ nbits)

/-- What the decoder reads from a table word laid out in the bus's byte lanes. -/
def decodeTableWord (nbits w : Nat) : Option Instr :=
  match decodeBytes (lanesOfWord (tableWord nbits w)) with
  | .ok (i, _) => some i
  | .error _   => none

end Sys2Proof
end

