-- ==== Sys2Proof/Machine/State.lean ====
section
/-! DEFINITION. The state of the block (10_state.md rules R20–R48): plain data, every piece INVENTORY.md lists, and the state right after reset (rule R48). -/

namespace Sys2Proof.Machine

/-- Why the machine stops with a fault. -/
inductive Fault where
  /-- Raised by `engineTurn`: the engine is BUSY with a code that names no command. R205 never accepts one, so no run from
  reset reaches this; safe (log 14). -/
  | illegalEngineCode (opc : Byte)
  deriving DecidableEq, Repr

/-- Why a step is refused. -/
inductive Refusal where
  /-- Raised by `exec` for a command not modelled yet; safe. No arm raises it. -/
  | notModelled (mnemonic : String)
  /-- Raised by `step` at a host action R244 forbids, of whose result the spec says nothing (I20: refuse); safe (log 13). -/
  | forbiddenHost
  deriving DecidableEq, Repr

/-- `ENGINE ∈ {IDLE, BUSY(c)}`, c the command code being executed (R22). -/
inductive Engine where
  | idle
  | busy (c : Byte)
  deriving DecidableEq, Repr

/-- The values of ERR_CODE (R110). -/
inductive ErrorCode where
  | none
  | illegalCmd
  | notReady
  | badLength
  | symbolWidth
  | freqOverflow
  | unknownSymbol
  | corruptHeader
  | malformedStream
  | capacity
  deriving DecidableEq, Repr

/-- The VALID register's five bits (R28). -/
structure Valid where
  ftV   : Bool
  treeV : Bool
  ctV   : Bool
  encV  : Bool
  hdrV  : Bool
  deriving DecidableEq, Repr

/-- A buffer (R44): the offsets written since its contents were last unspecified, as (offset, byte) pairs in the canonical
form `Memory.wf`; every other offset holds the free value `Config.bufByte background offset` (log 4). -/
structure Buffer where
  background : Nat
  cells      : List Host.Cell
  deriving DecidableEq, Repr

/-- A host access (R61): the tuple (addr, we, size, wdata). -/
structure Access where
  addr  : BitVec 22
  we    : Bool
  size  : BitVec 2
  wdata : Word
  deriving DecidableEq, Repr

/-- A response (R60, R61): `rdata` on a read, none on a write, and `err`. -/
structure Response where
  rdata : Option Word
  err   : Bool
  deriving DecidableEq, Repr

/-- One pending host input (log 1). -/
inductive Event where
  /-- The host presents a bus access (R61). -/
  | access (a : Access)
  /-- The host issues nothing until ENGINE = IDLE (R99's `wait`). -/
  | wait
  /-- `rst_n` is asserted and released (R230). -/
  | reset
  /-- The host does what R244 forbids. -/
  | forbidden
  deriving DecidableEq, Repr

/-- The whole state. -/
structure State where
  /-- ENGINE (R22); STATUS.BUSY is computed from it (R25). -/
  engine   : Engine
  /-- CTRL.IE (R23). -/
  ie       : Bool
  /-- CTRL.SYM8 (R23). -/
  sym8     : Bool
  /-- LAST_CMD (R24). -/
  lastCmd  : Byte
  /-- STATUS.DONE (R25). -/
  done     : Bool
  /-- STATUS.ERR (R25). -/
  err      : Bool
  /-- STATUS.REJ (R25). -/
  rej      : Bool
  /-- ERR_CODE (R26). -/
  errCode  : ErrorCode
  /-- ERR_INFO (R27). -/
  errInfo  : Word
  /-- VALID (R28). -/
  valid    : Valid
  /-- MSG_LEN (R30). -/
  msgLen   : Word
  /-- CONT_LEN (R31). -/
  contLen  : Word
  /-- CODE_SEL bits 7:0 (R37). -/
  codeSel  : Byte
  /-- The gated storage (R33–R35, R40–R43). -/
  tables   : Tables
  /-- MSG_BUF (R44). -/
  msgBuf   : Buffer
  /-- CONT_BUF (R44). -/
  contBuf  : Buffer
  /-- MSG_CAP and CONT_CAP (R9, R36). -/
  caps     : Caps
  /-- The response to the latest access performed (R61; log 10); the model's own. -/
  response : Option Response
  /-- Pending host inputs, the next one first (log 1); the model's own. -/
  events   : List Event
  /-- How many free values have been drawn (log 3); the model's own. -/
  draws    : Nat
  deriving DecidableEq, Repr

/-- VALID with every bit 0 (R48). -/
def Valid.clear : Valid := { ftV := false, treeV := false, ctV := false, encV := false, hdrV := false }

/-- The gated storage at `State.reset`; R48 leaves it unspecified and unobservable (log 5). -/
def Tables.reset : Tables where
  ftN     := 0
  ftSym   := Vector.replicate 256 0
  ftCnt   := Vector.replicate 256 0
  nodes   := Vector.replicate 511 (.leaf 0 0)
  nodeCnt := 0
  root    := noneIndex
  ct      := Vector.replicate 256 none
  pad     := 0
  bitLen  := 0
  payOff  := 0
  payLen  := 0

/-- The state right after reset (R48), with the default capacities (R9) and no input pending (log 2). -/
def State.reset : State where
  engine   := .idle
  ie       := false
  sym8     := false
  lastCmd  := 0
  done     := false
  err      := false
  rej      := false
  errCode  := .none
  errInfo  := 0
  valid    := Valid.clear
  msgLen   := 0
  contLen  := 0
  codeSel  := 0
  tables   := Tables.reset
  msgBuf   := { background := 0, cells := [] }
  contBuf  := { background := 1, cells := [] }
  caps     := Caps.default
  response := none
  events   := []
  draws    := 2

end Sys2Proof.Machine
end

