-- ==== Sys2Proof/Machine/Ops.lean ====
section
/-! DEFINITION. The named operations over memory and registers: the canonical memory list, buffer bytes (R15, R63, R69), field updates, command acceptance and completion (R204–R206), which is what this block has in place of trap entry (R210), with the W1C of STATUS in place of trap return (R211), and reset (R230). -/

namespace Sys2Proof.Machine

/-! ### Memory: (offset, byte) pairs, offsets strictly rising -/

/-- The canonical form: offsets strictly rising. An unlisted offset reads as no written value (`none`), so no entry can equal
what an unlisted offset reads as. -/
def Memory.wf : List Host.Cell → Bool
  | []            => true
  | [_]           => true
  | c :: d :: m   => decide (c.1 < d.1) && Memory.wf (d :: m)

/-- The byte written at an offset, if any. -/
def Memory.find : List Host.Cell → Nat → Option Byte
  | [], _          => none
  | (a, v) :: m, i => if a = i then some v else Memory.find m i

/-- Writing one byte. -/
def Memory.put : List Host.Cell → Nat → Byte → List Host.Cell
  | [], i, v          => [(i, v)]
  | (a, w) :: m, i, v =>
    if i < a then (i, v) :: (a, w) :: m
    else if i = a then (i, v) :: m
    else (a, w) :: Memory.put m i v

/-- A buffer whose every byte is unspecified (R44, R48; I6, I7), for draw `d`. -/
def Buffer.unspecified (d : Nat) : Buffer := { background := d, cells := [] }

/-- Byte `i` of a buffer: the byte written there, else the free value of its background (log 4). -/
def Buffer.byte (b : Buffer) (i : Nat) : Byte := (Memory.find b.cells i).getD (Config.bufByte b.background i)

/-- Byte `i` of a buffer of `cap` bytes; 0 at or beyond the capacity (R63). -/
def Buffer.read (cap : Nat) (b : Buffer) (i : Nat) : Byte := if i < cap then b.byte i else 0

/-- Write byte `i` of a buffer of `cap` bytes; ignored at or beyond the capacity (R63). -/
def Buffer.write (cap : Nat) (b : Buffer) (i : Nat) (v : Byte) : Buffer :=
  if i < cap then { b with cells := Memory.put b.cells i v } else b

/-- Write bytes at `off`, `off + 1`, … in order. -/
def Buffer.writeList (cap : Nat) (b : Buffer) (off : Nat) : List Byte → Buffer
  | []      => b
  | v :: vs => Buffer.writeList cap (b.write cap off v) (off + 1) vs

/-- The `n` bytes at `off`, `off + 1`, …. -/
def Buffer.readList (cap : Nat) (b : Buffer) (off : Nat) : Nat → List Byte
  | 0     => []
  | n + 1 => b.read cap off :: Buffer.readList cap b (off + 1) n

/-! ### Field updates -/

def State.setEngine (s : State) (e : Engine) : State := { s with engine := e }
def State.setValid (s : State) (v : Valid) : State := { s with valid := v }
def State.setTables (s : State) (t : Tables) : State := { s with tables := t }
def State.setMsgLen (s : State) (v : Word) : State := { s with msgLen := v }
def State.setContLen (s : State) (v : Word) : State := { s with contLen := v }
def State.setCodeSel (s : State) (v : Byte) : State := { s with codeSel := v }
def State.setMsgBuf (s : State) (b : Buffer) : State := { s with msgBuf := b }
def State.setContBuf (s : State) (b : Buffer) : State := { s with contBuf := b }
def State.setEvents (s : State) (es : List Event) : State := { s with events := es }
def State.setResponse (s : State) (r : Response) : State := { s with response := some r }
def State.setIe (s : State) (b : Bool) : State := { s with ie := b }
def State.setSym8 (s : State) (b : Bool) : State := { s with sym8 := b }
def State.setRej (s : State) (b : Bool) : State := { s with rej := b }
/-- One more free value has been drawn (log 3). -/
def State.nextDraw (s : State) : State := { s with draws := s.draws + 1 }

/-! ### Buffers through the state (R15, R69) -/

/-- `MsgRead(i)`. -/
def State.msgRead (s : State) (i : Nat) : Byte := s.msgBuf.read s.caps.msgCap i
/-- `ContRead(i)`. -/
def State.contRead (s : State) (i : Nat) : Byte := s.contBuf.read s.caps.contCap i
/-- `MsgWrite(off + j, bytes[j])` for every j. -/
def State.msgWrite (s : State) (off : Nat) (bytes : List Byte) : State :=
  s.setMsgBuf (s.msgBuf.writeList s.caps.msgCap off bytes)
/-- `ContWrite(off + j, bytes[j])` for every j. -/
def State.contWrite (s : State) (off : Nat) (bytes : List Byte) : State :=
  s.setContBuf (s.contBuf.writeList s.caps.contCap off bytes)

/-- Make MSG_BUF unspecified with a fresh draw (R183; I6). -/
def State.loseMsgBuf (s : State) : State := (s.setMsgBuf (Buffer.unspecified s.draws)).nextDraw

/-- Make the gated storage unspecified with a fresh draw (R131, R172; I8; log 6). -/
def State.loseTables (s : State) : State := (s.setTables (Config.freeTables s.draws)).nextDraw

/-! ### Command errors, stages, completion (R200, R206) -/

/-- `raise E(info)` (R15, R200). -/
structure CmdError where
  code : ErrorCode
  info : Word
  deriving DecidableEq, Repr

/-- What a stage leaves: its effects, or its failure effects and its error (R194, R206). -/
inductive Stage where
  | ok (s : State)
  | err (s : State) (e : CmdError)
  deriving DecidableEq, Repr

/-- Run the next stage after a success; a failure ends the command (46_top.md, R194). -/
def Stage.andThen : Stage → (State → Stage) → Stage
  | .ok s, f    => f s
  | .err s e, _ => .err s e

/-- A composite's own effect on failure (R191, R192, R194). -/
def Stage.onError (f : State → State) : Stage → Stage
  | .ok s    => .ok s
  | .err s e => .err (f s) e

/-- R206, success: ENGINE ← IDLE, BUSY ← 0, DONE ← 1. -/
def State.succeed (s : State) : State := { s with engine := .idle, done := true }

/-- R206, `raise E(info)`: as success, and ERR ← 1, ERR_CODE ← code(E), ERR_INFO ← info (R210: nothing else is saved). -/
def State.fail (s : State) (e : CmdError) : State :=
  { s with engine := .idle, done := true, err := true, errCode := e.code, errInfo := e.info }

/-- R206: the completion step. -/
def Stage.complete : Stage → State
  | .ok s    => s.succeed
  | .err s e => s.fail e

/-- A command's step from BUSY to IDLE (R72, R206). -/
def runCommand (stage : State → Stage) (s : State) : Host.Outcome State Fault Refusal := .next (stage s).complete

/-! ### Acceptance, rejection, W1C, reset -/

/-- R205, the register part of acceptance: LAST_CMD ← o, DONE, ERR, ERR_CODE and ERR_INFO cleared; REJ unchanged. -/
def State.clearStatus (s : State) (o : Byte) : State :=
  { s with lastCmd := o, done := false, err := false, errCode := .none, errInfo := 0 }

/-- R205: acceptance of a CMD write with value `v`. An illegal code completes at once with ILLEGAL_CMD (R97). -/
def State.accept (s : State) (v : Word) : State :=
  let o := opcOf v
  match decodeOpc o with
  | .ok _    => (s.clearStatus o).setEngine (.busy o)
  | .error _ => (s.clearStatus o).fail { code := .illegalCmd, info := o.setWidth 32 }

/-- A CMD write (R204, R205). -/
def State.writeCmd (s : State) (v : Word) : State :=
  match s.engine with
  | .idle   => s.accept v
  | .busy _ => s.setRej true

/-- A STATUS write (R25, R211): writing 1 to DONE, ERR or REJ clears it; BUSY and the reserved bits ignore it. -/
def State.writeStatus (s : State) (v : Word) : State :=
  { s with done := s.done && !v.getLsbD 1, err := s.err && !v.getLsbD 2, rej := s.rej && !v.getLsbD 3 }

/-- Reset (R230, R47, R48): every buffer byte and the gated storage become unspecified, the capacities stay, and the inputs
behind the reset stay pending (log 11). -/
def State.resetBlock (s : State) : State :=
  { State.reset with
    tables  := Config.freeTables s.draws
    msgBuf  := Buffer.unspecified (s.draws + 1)
    contBuf := Buffer.unspecified (s.draws + 2)
    caps    := s.caps
    events  := s.events
    draws   := s.draws + 3 }

end Sys2Proof.Machine
end

