-- ==== Sys2Proof/Machine/Operands.lean ====
section
/-! DEFINITION. The operand forms (30_encoding.md rule R91: implicit registers and storage): the message and the container as byte lists, the frequency table as a list, arena nodes, byte orders (R14, R66) and bit packing (R107, R161, R181). -/

namespace Sys2Proof.Machine

/-- An ordered frequency table: (symbol, count) pairs (R17, R130). -/
abbrev FreqTable := List (Byte × Nat)

/-! ### Byte orders (R14) -/

/-- `BE16(v)`. -/
def be16 (v : Nat) : List Byte := [BitVec.ofNat 8 (v / 256), BitVec.ofNat 8 v]

/-- `BE32(v)`. -/
def be32 (v : Nat) : List Byte :=
  [BitVec.ofNat 8 (v / 16777216), BitVec.ofNat 8 (v / 65536), BitVec.ofNat 8 (v / 256), BitVec.ofNat 8 v]

/-- The number two bytes hold, most significant first. -/
def ofBe16 (b0 b1 : Byte) : Nat := b0.toNat * 256 + b1.toNat

/-- The number four bytes hold, most significant first. -/
def ofBe32 (b0 b1 b2 b3 : Byte) : Nat := ((b0.toNat * 256 + b1.toNat) * 256 + b2.toNat) * 256 + b3.toNat

/-! ### Bits in bytes, most significant first (R107) -/

/-- The number a bit string writes, most significant first: Σ p[t] · 2^(len − 1 − t). -/
def bitsToNat (p : Bits) : Nat := p.foldl (fun acc b => 2 * acc + b.toNat) 0

/-- The bytes of a bit string, eight bits a byte; a rest of fewer than eight bits gives none. -/
def bytesOfBits : Bits → List Byte
  | b0 :: b1 :: b2 :: b3 :: b4 :: b5 :: b6 :: b7 :: rest =>
    BitVec.ofNat 8 (bitsToNat [b0, b1, b2, b3, b4, b5, b6, b7]) :: bytesOfBits rest
  | _ => []

/-- R161: pad = (8 − len(bits) mod 8) mod 8. -/
def padOf (n : Nat) : Nat := (8 - n % 8) % 8

/-- R161: `pack(bits)` = (bytes, pad). -/
def pack (bits : Bits) : List Byte × Nat :=
  (bytesOfBits (bits ++ List.replicate (padOf bits.length) false), padOf bits.length)

/-- The eight bits of a byte, bit 7 first (R107). -/
def bitsOfByte (b : Byte) : Bits :=
  [b.getLsbD 7, b.getLsbD 6, b.getLsbD 5, b.getLsbD 4, b.getLsbD 3, b.getLsbD 2, b.getLsbD 1, b.getLsbD 0]

/-- R181: `unpack(bytes, pad)`, the first 8·len(bytes) − pad bits. -/
def unpack (bytes : List Byte) (pad : Nat) : Bits := (bytes.flatMap bitsOfByte).take (8 * bytes.length - pad)

/-! ### Tables -/

/-- The table FT_N, FT_SYM and FT_CNT hold (R40): entries k < FT_N, in order. -/
def Tables.ft (t : Tables) : FreqTable :=
  (t.ftSym.toList.zip (t.ftCnt.toList.map BitVec.toNat)).take t.ftN.val

/-- Replace the first entries of an array by a list; the entries at and beyond its length stay (R40, R41: don't-care). -/
def overlay {α : Type} {n : Nat} (l : List α) (v : Vector α n) : Vector α n :=
  ⟨((l ++ v.toList.drop l.length).take n).toArray, by simp; omega⟩

/-- Store a table in FT_N, FT_SYM and FT_CNT. -/
def Tables.setFt (t : Tables) (l : FreqTable) : Tables :=
  { t with
    ftN   := Fin.ofNat 257 l.length
    ftSym := overlay (l.map Prod.fst) t.ftSym
    ftCnt := overlay (l.map fun e => BitVec.ofNat 17 e.2) t.ftCnt }

/-- NODE[i]; at 0x1FF, which names no node, the free node (log 15). -/
def nodeAt (nodes : Vector Node 511) (i : BitVec 9) : Node :=
  if h : i.toNat < 511 then nodes[i.toNat] else Config.noNode

/-- NODE[i].FREQ. -/
def Node.freq : Node → BitVec 32
  | .leaf _ f       => f
  | .internal f _ _ => f

/-- CT_CODE[s], or `none` where CT_PRESENT[s] = 0 (R43). -/
def ctAt (ct : Vector (Option Bits) 256) (s : Byte) : Option Bits := ct[s.toNat]'s.isLt

/-- Write symbol `s`'s code (R150). -/
def ctSet (ct : Vector (Option Bits) 256) (s : Byte) (c : Bits) : Vector (Option Bits) 256 := ct.set s.toNat (some c) s.isLt

/-- H = 5 + 3·N, the header's length (R105). -/
def headerLen (n : Nat) : Nat := 5 + 3 * n

/-! ### The message and the payload -/

/-- MSG_BUF[0..MSG_LEN−1]. -/
def State.message (s : State) : List Byte := s.msgBuf.readList s.caps.msgCap 0 s.msgLen.toNat

/-- CONT_BUF[PAYOFF_R..PAYOFF_R+PAYLEN_R−1]. -/
def State.payload (s : State) : List Byte :=
  s.contBuf.readList s.caps.contCap s.tables.payOff.toNat s.tables.payLen.toNat

/-- `(symbol << 24) | offset`, the ERR_INFO of a message byte (R202). -/
def symbolInfo (m : Byte) (i : Nat) : Word := (m.setWidth 32 <<< 24) ||| BitVec.ofNat 32 i

end Sys2Proof.Machine
end

