-- ==== Sys2Proof/Machine/Flags.lean ====
section
/-! DEFINITION. The flag computations: the STATUS, VALID and CTRL words (10_state.md rules R23, R25, R28), irq (R46), the required masks (60_exceptions.md rule R203), the VALID effects (R207) and the symbol-width check. -/

namespace Sys2Proof.Machine

/-- STATUS.BUSY: 1 exactly when ENGINE = BUSY(c) (R25). -/
def State.busy (s : State) : Bool :=
  match s.engine with
  | .idle   => false
  | .busy _ => true

/-- The level output irq = CTRL.IE ∧ STATUS.DONE (R46). -/
def State.irq (s : State) : Bool := s.ie && s.done

/-- A word whose bit 0, 1, … is the first, second, … of `l`. -/
def flagWord (l : List Bool) : Word := BitVec.ofNat 32 (l.foldr (fun b acc => b.toNat + 2 * acc) 0)

/-- STATUS as read (R25). -/
def State.statusWord (s : State) : Word := flagWord [s.busy, s.done, s.err, s.rej]

/-- CTRL as read (R23). -/
def State.ctrlWord (s : State) : Word := flagWord [s.ie, s.sym8]

/-- VALID as read (R28). -/
def Valid.word (v : Valid) : Word := flagWord [v.ftV, v.treeV, v.ctV, v.encV, v.hdrV]

/-- ERR_CODE's value (R110). -/
def ErrorCode.byte : ErrorCode → Byte
  | .none            => 0x00
  | .illegalCmd      => 0x01
  | .notReady        => 0x02
  | .badLength       => 0x03
  | .symbolWidth     => 0x04
  | .freqOverflow    => 0x05
  | .unknownSymbol   => 0x06
  | .corruptHeader   => 0x07
  | .malformedStream => 0x08
  | .capacity        => 0x09

/-- required-mask & ~VALID (R203). -/
def Valid.missing (v : Valid) (mask : Word) : Word := mask &&& ~~~v.word

/-- `require` (R203): NOT_READY(required-mask & ~VALID) before anything else, with no effect; else the stage. -/
def require (mask : Word) (stage : State → Stage) (s : State) : Stage :=
  let m := s.valid.missing mask
  if m = 0 then stage s else .err s { code := .notReady, info := m }

/-- VALID after a successful COUNT (R131, R207). -/
def Valid.afterCount : Valid := { Valid.clear with ftV := true }
/-- VALID after BUILD (R141, R207). -/
def Valid.afterBuild (v : Valid) : Valid := { v with treeV := true, ctV := false, encV := false }
/-- VALID after GEN (R151, R207). -/
def Valid.afterGen (v : Valid) : Valid := { v with ctV := true, encV := false }
/-- VALID after a successful ENCODE (R163, R207). -/
def Valid.afterEncode (v : Valid) : Valid := { v with encV := true, hdrV := false }
/-- VALID after an ENCODE failure other than NOT_READY (R163, R207). -/
def Valid.afterEncodeFailure (v : Valid) : Valid := { v with encV := false }
/-- VALID after WRITE_HDR (R171, R207). -/
def Valid.afterWriteHdr (v : Valid) : Valid := { v with hdrV := true }
/-- VALID after a successful READ_HDR (R172, R207). -/
def Valid.afterReadHdr : Valid := { Valid.clear with ftV := true, hdrV := true }

/-- SYM8 = 0 and the byte is ≥ 0x80 (R12, R131, R163, R172). -/
def tooWide (sym8 : Bool) (m : Byte) : Bool := !sym8 && decide (0x80 ≤ m.toNat)

end Sys2Proof.Machine
end

