-- ==== Sys2Proof/Machine/Bus.lean ====
section
/-! DEFINITION. Host accesses (20_memory.md rules R60–R72): the address map, alignment, the register map (30_encoding.md rule R100), the FT and node windows (R103, R104), the CODE registers (R37–R39) and the buffer windows (R63, R65). -/

namespace Sys2Proof.Machine

/-- The registers of R100. -/
inductive Reg where
  | id | ctrl | cmd | status | errCode | errInfo | valid | msgLen | contLen | numSyms | pad | bitLen | payOff | payLen
  | root | nodeCnt | msgCap | contCap | codeSel | codeInfo
  | codeBits (k : Nat)
  deriving DecidableEq, Repr

/-- What an address names (R62, R100, R103, R104). -/
inductive Place where
  | reg (r : Reg)
  | ftEntry (k : Nat)
  | nodeFreq (i : Nat)
  | nodeInfo (i : Nat)
  | msg (o : Nat)
  | cont (o : Nat)
  /-- An unmapped register offset (R64) or the reserved range (R62): RAZ/WI. -/
  | nothing
  deriving DecidableEq, Repr

/-- ID's constant (R2, R36). -/
def idValue : Word := 0x48554646#32

/-- The register at a 4-aligned offset (R100). -/
def regAt (off : Nat) : Option Reg :=
  match off / 4 with
  | 0  => some .id
  | 1  => some .ctrl
  | 2  => some .cmd
  | 3  => some .status
  | 4  => some .errCode
  | 5  => some .errInfo
  | 6  => some .valid
  | 7  => some .msgLen
  | 8  => some .contLen
  | 9  => some .numSyms
  | 10 => some .pad
  | 11 => some .bitLen
  | 12 => some .payOff
  | 13 => some .payLen
  | 14 => some .root
  | 15 => some .nodeCnt
  | 16 => some .msgCap
  | 17 => some .contCap
  | 18 => some .codeSel
  | 19 => some .codeInfo
  | 20 => some (.codeBits 0)
  | 21 => some (.codeBits 1)
  | 22 => some (.codeBits 2)
  | 23 => some (.codeBits 3)
  | 24 => some (.codeBits 4)
  | 25 => some (.codeBits 5)
  | 26 => some (.codeBits 6)
  | 27 => some (.codeBits 7)
  | _  => none

/-- The register region (R64, R100, R103, R104): offsets 0x1FF8–0x1FFF name no entry. -/
def regionPlace (off : Nat) : Place :=
  if 0x400 ≤ off ∧ off < 0x800 then .ftEntry ((off - 0x400) / 4)
  else if 0x1000 ≤ off ∧ off < 0x1FF8 then
    if (off - 0x1000) % 8 = 0 then .nodeFreq ((off - 0x1000) / 8) else .nodeInfo ((off - 0x1000) / 8)
  else
    match regAt off with
    | some r => .reg r
    | none   => .nothing

/-- The address map (R62). -/
def placeOf (addr : BitVec 22) : Place :=
  if addr.toNat < 0x100000 then regionPlace addr.toNat
  else if addr.toNat < 0x200000 then .msg (addr.toNat - 0x100000)
  else if addr.toNat < 0x300000 then .cont (addr.toNat - 0x200000)
  else .nothing

/-- The access width in bytes (R60); `none` for size 3. -/
def Access.bytes (a : Access) : Option Nat :=
  if a.size = 0 then some 1 else if a.size = 1 then some 2 else if a.size = 2 then some 4 else none

/-- R67: a legal size, natural alignment, and four bytes in the register region (log 8 for the reserved range). -/
def Access.legal (a : Access) : Bool :=
  match a.bytes with
  | none   => false
  | some n => decide (a.addr.toNat % n = 0) && (decide (0x100000 ≤ a.addr.toNat) || decide (n = 4))

/-- The code CODE_SEL shows, when VALID.CT_V = 1 and it is present (R38, R39). -/
def State.selectedCode (s : State) : Option Bits := if s.valid.ctV then ctAt s.tables.ct s.codeSel else none

/-- CODE_INFO (R38). -/
def State.codeInfo (s : State) : Word :=
  match s.selectedCode with
  | some c => 0x80000000#32 ||| (BitVec.ofNat 8 c.length).setWidth 32
  | none   => 0

/-- Bits 32k..32k+31 of a code, the first at bit 31, the rest 0 (R39). -/
def codeWord (c : Bits) (k : Nat) : Word :=
  let p := (c.drop (32 * k)).take 32
  BitVec.ofNat 32 (bitsToNat (p ++ List.replicate (32 - p.length) false))

/-- CODE_BITSk (R39). -/
def State.codeBits (s : State) (k : Nat) : Word :=
  match s.selectedCode with
  | some c => codeWord c k
  | none   => 0

/-- An FT window word (R103). -/
def State.ftWord (s : State) (k : Nat) : Word :=
  if s.valid.ftV then
    match s.tables.ft[k]? with
    | some (sym, n) => 0x80000000#32 ||| (BitVec.ofNat 32 (n % 65536) <<< 8) ||| sym.setWidth 32
    | none          => 0
  else 0

/-- A node's INFO word (R104). -/
def Node.info : Node → Word
  | .leaf sym _ =>
    0xC0000000#32 ||| (noneIndex.setWidth 32 <<< 17) ||| (noneIndex.setWidth 32 <<< 8) ||| sym.setWidth 32
  | .internal _ left right => 0x80000000#32 ||| (right.setWidth 32 <<< 17) ||| (left.setWidth 32 <<< 8)

/-- A node window word: 0 unless VALID.TREE_V = 1 and i < NODECNT_R (R104). -/
def State.nodeWord (s : State) (f : Node → Word) (i : Nat) : Word :=
  if s.valid.treeV && decide (i < s.tables.nodeCnt.val) then f (nodeAt s.tables.nodes (BitVec.ofNat 9 i)) else 0

/-- A register's value while it is readable (R23–R39). -/
def State.regRead (s : State) : Reg → Word
  | .id         => idValue
  | .ctrl       => s.ctrlWord
  | .cmd        => s.lastCmd.setWidth 32
  | .status     => s.statusWord
  | .errCode    => s.errCode.byte.setWidth 32
  | .errInfo    => s.errInfo
  | .valid      => s.valid.word
  | .msgLen     => s.msgLen
  | .contLen    => s.contLen
  | .numSyms    => if s.valid.ftV then BitVec.ofNat 32 s.tables.ftN.val else 0
  | .pad        => if s.valid.encV || s.valid.hdrV then s.tables.pad.setWidth 32 else 0
  | .bitLen     => if s.valid.encV || s.valid.hdrV then s.tables.bitLen else 0
  | .payOff     => if s.valid.hdrV then s.tables.payOff else 0
  | .payLen     => if s.valid.hdrV then s.tables.payLen else 0
  | .root       => if s.valid.treeV then s.tables.root.setWidth 32 else noneIndex.setWidth 32
  | .nodeCnt    => if s.valid.treeV then BitVec.ofNat 32 s.tables.nodeCnt.val else 0
  | .msgCap     => BitVec.ofNat 32 s.caps.msgCap
  | .contCap    => BitVec.ofNat 32 s.caps.contCap
  | .codeSel    => s.codeSel.setWidth 32
  | .codeInfo   => s.codeInfo
  | .codeBits k => s.codeBits k

/-- The bytes of a window access as a word, little-endian, the other bits 0 (R65). -/
def leWord (bytes : List Byte) : Word := BitVec.ofNat 32 (bytes.foldr (fun b acc => b.toNat + 256 * acc) 0)

/-- A read of `n` bytes at a place while it is readable (R63–R65). -/
def State.placeRead (s : State) (n : Nat) : Place → Word
  | .reg r      => s.regRead r
  | .ftEntry k  => s.ftWord k
  | .nodeFreq i => s.nodeWord Node.freq i
  | .nodeInfo i => s.nodeWord Node.info i
  | .msg o      => leWord (s.msgBuf.readList s.caps.msgCap o n)
  | .cont o     => leWord (s.contBuf.readList s.caps.contCap o n)
  | .nothing    => 0

/-- The places whose reads stay defined while BUSY: ID, CTRL, CMD, STATUS, MSG_CAP and CONT_CAP (R70); what is neither a
register nor a window stays RAZ (R64; log 9). -/
def Place.readableWhileBusy : Place → Bool
  | .reg .id | .reg .ctrl | .reg .cmd | .reg .status | .reg .msgCap | .reg .contCap | .nothing => true
  | _ => false

/-- A legal read (R68, R70): the value in the response; no other effect, but that a hidden read while BUSY draws a free value. -/
def State.busRead (s : State) (n : Nat) (p : Place) : State :=
  if s.busy && !p.readableWhileBusy then
    (s.setResponse { rdata := some (Config.busyRead s.draws), err := false }).nextDraw
  else s.setResponse { rdata := some (s.placeRead n p), err := false }

/-- A CTRL write (R23): SYM8 is ignored while BUSY. -/
def State.writeCtrl (s : State) (v : Word) : State :=
  if s.busy then s.setIe (v.getLsbD 0) else (s.setIe (v.getLsbD 0)).setSym8 (v.getLsbD 1)

/-- A legal write of the low `n` lanes at a place while IDLE; everything else is read-only or RAZ/WI (R63–R65, R68). -/
def State.idleWrite (s : State) (n : Nat) (v : Word) : Place → State
  | .reg .msgLen  => s.setMsgLen v
  | .reg .contLen => s.setContLen v
  | .reg .codeSel => s.setCodeSel (v.extractLsb' 0 8)
  | .msg o        => s.msgWrite o ((lanesOfWord v).take n)
  | .cont o       => s.contWrite o ((lanesOfWord v).take n)
  | _             => s

/-- A legal write (R68, R71): CTRL, CMD and STATUS always; the rest only while IDLE. -/
def State.placeWrite (s : State) (n : Nat) (v : Word) : Place → State
  | .reg .ctrl   => s.writeCtrl v
  | .reg .cmd    => s.writeCmd v
  | .reg .status => s.writeStatus v
  | p            => if s.busy then s else s.idleWrite n v p

/-- One host access and its response (R61, R67): an illegal access changes nothing, and an erroring read returns 0 (R60). -/
def State.busAccess (s : State) (a : Access) : State :=
  match a.bytes, a.legal with
  | some n, true =>
    if a.we then (s.placeWrite n a.wdata (placeOf a.addr)).setResponse { rdata := none, err := false }
    else s.busRead n (placeOf a.addr)
  | _, _ => s.setResponse { rdata := if a.we then none else some 0, err := true }

end Sys2Proof.Machine
end

