-- ==== Sys2Proof/Machine/CodeTable.lean ====
section
/-! DEFINITION. GEN, the code table generator (42_code_table.md rules R150, R151, R153). -/

namespace Sys2Proof.Machine

/-- R150: `visit(i, c)`, with `fuel` bounding the depth; no node of a valid tree is deeper than 255 (R144; log 15). -/
def visit (nodes : Vector Node 511) : Nat → BitVec 9 → Bits → Vector (Option Bits) 256 → Vector (Option Bits) 256
  | 0, _, _, ct        => ct
  | fuel + 1, i, c, ct =>
    match nodeAt nodes i with
    | .leaf sym _       => ctSet ct sym c
    | .internal _ left right => visit nodes fuel right (c ++ [true]) (visit nodes fuel left (c ++ [false]) ct)

/-- R150: `generate_codes(NODE, root)`. -/
def generateCodes (nodes : Vector Node 511) (root : BitVec 9) : Vector (Option Bits) 256 :=
  if root = noneIndex then Vector.replicate 256 none
  else visit nodes 511 root [] (Vector.replicate 256 none)

/-- GEN past its `require` (R151). -/
def genBody (s : State) : Stage :=
  .ok ((s.setTables { s.tables with ct := generateCodes s.tables.nodes s.tables.root }).setValid s.valid.afterGen)

/-- GEN (R151): requires TREE_V. -/
def stageGen (s : State) : Stage := require 0x02 genBody s

/-- GEN as a command. -/
def execGen (s : State) : Host.Outcome State Fault Refusal := runCommand stageGen s

end Sys2Proof.Machine
end

