-- ==== Sys2Proof/Machine/Counter.lean ====
section
/-! DEFINITION. COUNT, the frequency counter (40_frequency_counter.md rules R130, R131). -/

namespace Sys2Proof.Machine

/-- One more occurrence of `m`: its entry's count grows, or it is appended with count 1 (R130). -/
def bump (m : Byte) : FreqTable → FreqTable
  | []          => [(m, 1)]
  | (x, n) :: t => if x = m then (x, n + 1) :: t else (x, n) :: bump m t

/-- R130: `count_frequencies(M)`, in order of first occurrence. -/
def countFrequencies (msg : List Byte) : FreqTable := msg.foldl (fun t m => bump m t) []

/-- The count of `m` in a table; 0 where it has no entry. -/
def countOf (m : Byte) : FreqTable → Nat
  | []          => 0
  | (x, n) :: t => if x = m then n else countOf m t

/-- R131's loop over the message from offset `i` on, with the table so far: SYMBOL_WIDTH, then the count, then
FREQ_OVERFLOW when the count reaches 65536. -/
def countLoop (sym8 : Bool) : List Byte → Nat → FreqTable → Except CmdError FreqTable
  | [], _, t          => .ok t
  | m :: rest, i, t =>
    if tooWide sym8 m then .error { code := .symbolWidth, info := symbolInfo m i }
    else if countOf m (bump m t) = 65536 then .error { code := .freqOverflow, info := symbolInfo m i }
    else countLoop sym8 rest (i + 1) (bump m t)

/-- A COUNT or READ_HDR failure: all five VALID bits cleared, the gated storage unspecified (R131, R172; I8). -/
def loseTablesWith (s : State) (e : CmdError) : Stage := .err (s.loseTables.setValid Valid.clear) e

/-- COUNT (R131). -/
def stageCount (s : State) : Stage :=
  if s.caps.msgCap < s.msgLen.toNat then loseTablesWith s { code := .badLength, info := s.msgLen }
  else
    match countLoop s.sym8 s.message 0 [] with
    | .error e => loseTablesWith s e
    | .ok t    => .ok ((s.setTables (s.tables.setFt t)).setValid Valid.afterCount)

/-- COUNT as a command. -/
def execCount (s : State) : Host.Outcome State Fault Refusal := runCommand stageCount s

end Sys2Proof.Machine
end

