-- ==== Sys2Proof/Machine/Container.lean ====
section
/-! DEFINITION. WRITE_HDR and READ_HDR, the container header (44_container.md rules R170–R172). -/

namespace Sys2Proof.Machine

/-- R170: one entry's three bytes, the count's low 16 bits (R171). -/
def entryBytes (e : Byte × Nat) : List Byte := e.1 :: be16 (e.2 % 65536)

/-- R170: `header(FT, pad)`. -/
def headerBytes (ft : FreqTable) (pad : Byte) : List Byte := be32 ft.length ++ ft.flatMap entryBytes ++ [pad]

/-- WRITE_HDR past its `require` (R171). -/
def writeHdrBody (s : State) : Stage :=
  let h := headerLen s.tables.ftN.val
  let p := ceil8 s.tables.bitLen.toNat
  .ok ((((s.contWrite 0 (headerBytes s.tables.ft (s.tables.pad.setWidth 8))).setContLen (BitVec.ofNat 32 (h + p))).setTables
    { s.tables with payOff := BitVec.ofNat 32 h, payLen := BitVec.ofNat 32 p }).setValid s.valid.afterWriteHdr)

/-- WRITE_HDR (R171): requires ENC_V. -/
def stageWriteHdr (s : State) : Stage := require 0x08 writeHdrBody s

/-- WRITE_HDR as a command. -/
def execWriteHdr (s : State) : Host.Outcome State Fault Refusal := runCommand stageWriteHdr s

/-- CORRUPT_HEADER with the offending field's byte offset (R202). -/
def corrupt (off : Nat) : CmdError := { code := .corruptHeader, info := BitVec.ofNat 32 off }

/-- R172's loop over the entries from byte offset `off` = 4 + 3k on, `n` of them left, with the table read so far: `seen[s]`
is 1 exactly when `s` stands in it. -/
def readEntries (sym8 : Bool) (get : Nat → Byte) : Nat → Nat → FreqTable → Except CmdError FreqTable
  | 0, _, t       => .ok t
  | n + 1, off, t =>
    let s := get off
    let f := ofBe16 (get (off + 1)) (get (off + 2))
    if tooWide sym8 s then .error (corrupt off)
    else if s ∈ t.map Prod.fst then .error (corrupt off)
    else if f = 0 then .error (corrupt (off + 1))
    else readEntries sym8 get n (off + 3) (t ++ [(s, f)])

/-- What a header gives: the table and the padding count (R172). -/
structure Header where
  table : FreqTable
  pad   : Byte
  deriving DecidableEq, Repr

/-- R172 from `L < 4` on: the header of a container of `len` bytes, its checks in R172's order. -/
def parseHeader (sym8 : Bool) (get : Nat → Byte) (len : Nat) : Except CmdError Header :=
  if len < 4 then .error (corrupt 0)
  else
    let n := ofBe32 (get 0) (get 1) (get 2) (get 3)
    if len < headerLen n then .error (corrupt 0)
    else if 256 < n then .error (corrupt 0)
    else
      match readEntries sym8 get n 4 [] with
      | .error e => .error e
      | .ok t =>
        let pad := get (4 + 3 * n)
        if 7 < pad.toNat then .error (corrupt (4 + 3 * n))
        else if len - headerLen n = 0 ∧ pad ≠ 0 then .error (corrupt (4 + 3 * n))
        else .ok { table := t, pad := pad }

/-- Store a parsed header of a container of `len` bytes: the table and the payload descriptors (R172). -/
def Tables.setHeader (t : Tables) (h : Header) (len : Nat) : Tables :=
  let off := headerLen h.table.length
  let p := len - off
  { t.setFt h.table with
    pad    := h.pad.setWidth 3
    payOff := BitVec.ofNat 32 off
    payLen := BitVec.ofNat 32 p
    bitLen := BitVec.ofNat 32 (8 * p - h.pad.toNat) }

/-- READ_HDR (R172). -/
def stageReadHdr (s : State) : Stage :=
  let len := s.contLen.toNat
  if s.caps.contCap < len then loseTablesWith s { code := .badLength, info := s.contLen }
  else
    match parseHeader s.sym8 s.contRead len with
    | .error e => loseTablesWith s e
    | .ok h    => .ok ((s.setTables (s.tables.setHeader h len)).setValid Valid.afterReadHdr)

/-- READ_HDR as a command. -/
def execReadHdr (s : State) : Host.Outcome State Fault Refusal := runCommand stageReadHdr s

end Sys2Proof.Machine
end

