-- ==== Sys2Proof/Machine/Decoder.lean ====
section
/-! DEFINITION. DECODE, the bit-stream decoder (45_decoder.md rules R180–R183). -/

namespace Sys2Proof.Machine

/-- R180: `decode_walk` from bit index `j` on, with the walk position, the index where the current code began and the output
so far. -/
def walk (cap : Nat) (nodes : Vector Node 511) (root : BitVec 9) :
    Bits → Nat → BitVec 9 → Nat → List Byte → Except CmdError (List Byte)
  | [], _, pos, start, out =>
    if pos = root then .ok out else .error { code := .malformedStream, info := BitVec.ofNat 32 start }
  | b :: bits, j, pos, start, out =>
    let start' := if pos = root then j else start
    let next := match nodeAt nodes pos with
      | .internal _ left right => if b then right else left
      | .leaf _ _ => pos
    match nodeAt nodes next with
    | .leaf sym _ =>
      if out.length = cap then .error { code := .capacity, info := BitVec.ofNat 32 start' }
      else walk cap nodes root bits (j + 1) root start' (out ++ [sym])
    | .internal _ _ _ => walk cap nodes root bits (j + 1) next start' out

/-- MALFORMED_STREAM(0): bits for an empty or single-leaf tree (R183). -/
def malformedAtZero : CmdError := { code := .malformedStream, info := 0 }

/-- R183's three cases: the decoded bytes of an unpacked payload, or the error. -/
def decodeMessage (cap : Nat) (t : Tables) (bits : Bits) : Except CmdError (List Byte) :=
  if t.root = noneIndex then
    if bits.length = 0 then .ok [] else .error malformedAtZero
  else
    match nodeAt t.nodes t.root with
    | .leaf sym f =>
      if bits.length = 0 then
        if cap < f.toNat then .error { code := .capacity, info := f } else .ok (List.replicate f.toNat sym)
      else .error malformedAtZero
    | .internal _ _ _ => walk cap t.nodes t.root bits 0 t.root 0 []

/-- A DECODE failure other than NOT_READY: MSG_LEN ← 0 and MSG_BUF unspecified (R183; I6). -/
def decodeFails (s : State) (e : CmdError) : Stage := .err (s.loseMsgBuf.setMsgLen 0) e

/-- DECODE past its `require` (R183). -/
def decodeBody (s : State) : Stage :=
  match decodeMessage s.caps.msgCap s.tables (unpack s.payload s.tables.pad.toNat) with
  | .error e => decodeFails s e
  | .ok out  => .ok ((s.msgWrite 0 out).setMsgLen (BitVec.ofNat 32 out.length))

/-- DECODE (R183): requires TREE_V and HDR_V. -/
def stageDecode (s : State) : Stage := require 0x12 decodeBody s

/-- DECODE as a command. -/
def execDecode (s : State) : Host.Outcome State Fault Refusal := runCommand stageDecode s

end Sys2Proof.Machine
end

