-- ==== Sys2Proof/Machine/Encoder.lean ====
section
/-! DEFINITION. ENCODE, the bit-stream encoder (43_encoder.md rules R160–R163). -/

namespace Sys2Proof.Machine

/-- R160: `encode(M, CT)`; a symbol with no code, which ENCODE rejects first, adds nothing. -/
def encodeBits (ct : Vector (Option Bits) 256) (msg : List Byte) : Bits := msg.flatMap fun m => (ctAt ct m).getD []

/-- R163, pass 1, from offset `i` on: SYMBOL_WIDTH before UNKNOWN_SYMBOL at each byte; else the sum of the code lengths. -/
def sizeLoop (sym8 : Bool) (ct : Vector (Option Bits) 256) : List Byte → Nat → Nat → Except CmdError Nat
  | [], _, total        => .ok total
  | m :: rest, i, total =>
    if tooWide sym8 m then .error { code := .symbolWidth, info := symbolInfo m i }
    else
      match ctAt ct m with
      | none   => .error { code := .unknownSymbol, info := symbolInfo m i }
      | some c => sizeLoop sym8 ct rest (i + 1) (total + c.length)

/-- An ENCODE failure other than NOT_READY: ENC_V cleared, nothing else (R163). -/
def encodeFails (s : State) (e : CmdError) : Stage := .err (s.setValid s.valid.afterEncodeFailure) e

/-- R163, pass 2: write the payload, PAD_R and BITLEN_R. -/
def encodeWrite (s : State) (total : Nat) : Stage :=
  let p := pack (encodeBits s.tables.ct s.message)
  .ok (((s.contWrite (headerLen s.tables.ftN.val) p.1).setTables
    { s.tables with bitLen := BitVec.ofNat 32 total, pad := BitVec.ofNat 3 p.2 }).setValid s.valid.afterEncode)

/-- ENCODE past its `require` (R163). -/
def encodeBody (s : State) : Stage :=
  if s.caps.msgCap < s.msgLen.toNat then encodeFails s { code := .badLength, info := s.msgLen }
  else
    match sizeLoop s.sym8 s.tables.ct s.message 0 0 with
    | .error e  => encodeFails s e
    | .ok total =>
      let need := headerLen s.tables.ftN.val + ceil8 total
      if s.caps.contCap < need then encodeFails s { code := .capacity, info := BitVec.ofNat 32 need }
      else encodeWrite s total

/-- ENCODE (R163): requires CT_V. -/
def stageEncode (s : State) : Stage := require 0x04 encodeBody s

/-- ENCODE as a command. -/
def execEncode (s : State) : Host.Outcome State Fault Refusal := runCommand stageEncode s

end Sys2Proof.Machine
end

