-- ==== Sys2Proof/Machine/TreeBuilder.lean ====
section
/-! DEFINITION. BUILD, the Huffman tree builder (41_tree_builder.md rules R140, R141). -/

namespace Sys2Proof.Machine

/-- `NODE[i].FREQ` of an arena under construction. -/
def freqOf (arena : List Node) (i : Nat) : Nat :=
  match arena[i]? with
  | some n => n.freq.toNat
  | none   => 0

/-- `stable_sort(W, key = λi. NODE[i].FREQ)` (R16, R140). -/
def sortWork (arena : List Node) (w : List Nat) : List Nat :=
  w.insertionSort (fun a b => freqOf arena a ≤ freqOf arena b)

/-- R140's loop, with `fuel` bounding its iterations: sort the working set, combine its first two nodes under a new one (the
first removed is the left child) and put that at the end. -/
def mergeLoop : Nat → List Node → List Nat → List Node × List Nat
  | 0, arena, w        => (arena, w)
  | fuel + 1, arena, w =>
    match sortWork arena w with
    | a :: b :: rest =>
      mergeLoop fuel
        (arena ++ [.internal (BitVec.ofNat 32 (freqOf arena a + freqOf arena b)) (BitVec.ofNat 9 a) (BitVec.ofNat 9 b)])
        (rest ++ [arena.length])
    | _ => (arena, w)

/-- The leaves of a table, in its order (R140). -/
def leavesOf (ft : FreqTable) : List Node := ft.map fun e => .leaf e.1 (BitVec.ofNat 32 e.2)

/-- R140: `build_tree(FT)`, the arena and the root; NONE for an empty table. -/
def buildTree (ft : FreqTable) : List Node × BitVec 9 :=
  match mergeLoop (ft.length - 1) (leavesOf ft) (List.range ft.length) with
  | (arena, r :: _) => (arena, BitVec.ofNat 9 r)
  | (arena, [])     => (arena, noneIndex)

/-- Store an arena and its root (R141). -/
def Tables.setTree (t : Tables) (tree : List Node × BitVec 9) : Tables :=
  { t with nodes := overlay tree.1 t.nodes, nodeCnt := Fin.ofNat 512 tree.1.length, root := tree.2 }

/-- BUILD past its `require` (R141). -/
def buildBody (s : State) : Stage :=
  .ok ((s.setTables (s.tables.setTree (buildTree s.tables.ft))).setValid s.valid.afterBuild)

/-- BUILD (R141): requires FT_V. -/
def stageBuild (s : State) : Stage := require 0x01 buildBody s

/-- BUILD as a command. -/
def execBuild (s : State) : Host.Outcome State Fault Refusal := runCommand stageBuild s

end Sys2Proof.Machine
end

