-- ==== Sys2Proof/Machine/Top.lean ====
section
/-! DEFINITION. The top-level commands NOP, COMPRESS, DECOMPRESS and INSPECT (46_top.md rules R190–R194). -/

namespace Sys2Proof.Machine

/-- NOP (R190): no effect. -/
def stageNop (s : State) : Stage := .ok s

/-- NOP as a command. -/
def execNop (s : State) : Host.Outcome State Fault Refusal := runCommand stageNop s

/-- COMPRESS (R191): COUNT, BUILD, GEN, ENCODE, WRITE_HDR; on the first stage error also CONT_LEN ← 0. -/
def stageCompress (s : State) : Stage :=
  ((((stageCount s).andThen stageBuild).andThen stageGen).andThen stageEncode |>.andThen stageWriteHdr).onError
    fun t => t.setContLen 0

/-- COMPRESS as a command. -/
def execCompress (s : State) : Host.Outcome State Fault Refusal := runCommand stageCompress s

/-- DECOMPRESS (R192): READ_HDR, BUILD, DECODE; on the first stage error also MSG_LEN ← 0. -/
def stageDecompress (s : State) : Stage :=
  (((stageReadHdr s).andThen stageBuild).andThen stageDecode).onError fun t => t.setMsgLen 0

/-- DECOMPRESS as a command. -/
def execDecompress (s : State) : Host.Outcome State Fault Refusal := runCommand stageDecompress s

/-- INSPECT (R193): READ_HDR, BUILD. -/
def stageInspect (s : State) : Stage := (stageReadHdr s).andThen stageBuild

/-- INSPECT as a command. -/
def execInspect (s : State) : Host.Outcome State Fault Refusal := runCommand stageInspect s

end Sys2Proof.Machine
end

