-- ==== Sys2Proof/Machine/Dispatch.lean ====
section
/-! DEFINITION. The commands' meanings: one arm per constructor of Instr (30_encoding.md rule R95). A meaning is the command's completion step, from BUSY(c) to IDLE (20_memory.md rule R72, 60_exceptions.md rule R206). -/

namespace Sys2Proof.Machine

def exec (i : Instr) (s : State) : Host.Outcome State Fault Refusal :=
  match i with
  | .nop => Sys2Proof.Machine.execNop s
  | .count => Sys2Proof.Machine.execCount s
  | .build => Sys2Proof.Machine.execBuild s
  | .gen => Sys2Proof.Machine.execGen s
  | .encode => Sys2Proof.Machine.execEncode s
  | .writeHdr => Sys2Proof.Machine.execWriteHdr s
  | .readHdr => Sys2Proof.Machine.execReadHdr s
  | .decode => Sys2Proof.Machine.execDecode s
  | .compress => Sys2Proof.Machine.execCompress s
  | .decompress => Sys2Proof.Machine.execDecompress s
  | .inspect => Sys2Proof.Machine.execInspect s

end Sys2Proof.Machine
end

