-- ==== Sys2Proof/Machine/Engine.lean ====
section
/-! DEFINITION. The engine's turn: the running command is read from ENGINE and completes (10_state.md rule R22, 60_exceptions.md rule R206). -/

namespace Sys2Proof.Machine

/-- The engine's turn, the inputs behind the head being `rest`: a running command completes; while IDLE the host's wait is
over (log 1). -/
def engineTurn (s : State) (rest : List Event) : Host.Outcome State Fault Refusal :=
  match s.engine with
  | .idle   => .next (s.setEvents rest)
  | .busy c =>
    match decodeOpc c with
    | .ok i    => exec i s
    | .error _ => .fault (.illegalEngineCode c)

/-- Make a CMD word's command the running one, as acceptance does (R205), and let the host wait for it (log 2). -/
def State.startCommand (s : State) (v : Word) : State := (s.accept v).setEvents (.wait :: s.events)

end Sys2Proof.Machine
end

