-- ==== Sys2Proof/Machine/Step.lean ====
section
/-! DEFINITION. One step: the next pending host input is performed, or, where the host waits or has nothing pending, the engine moves (20_memory.md rules R61, R72, R73; log 1). -/

namespace Sys2Proof.Machine

/-- One step of the block. -/
def step (s : State) : Host.Outcome State Fault Refusal :=
  match s.events with
  | .access a :: rest  => .next ((s.setEvents rest).busAccess a)
  | .reset :: rest     => .next (s.setEvents rest).resetBlock
  | .forbidden :: _    => .refused .forbiddenHost
  | .wait :: rest      => engineTurn s rest
  | []                 => engineTurn s []

/-- The table word as an accepted CMD write whose command the next step runs (log 2). -/
def State.withFetchWord (s : State) (nbits w : Nat) : State := s.startCommand (tableWord nbits w)

end Sys2Proof.Machine
end

