-- ==== Sys2Proof/Safety.lean ====
section
/-! DEFINITION. What counts as a safe state, in the terms claims use: the invariants the spec states of the block (10_state.md rules R22, R28, R29, R40–R44), what a command's result looks like, and the spec-side notions claims compare the model with (paths in the tree, the heap form of the tree builder, rule R207's table). -/

namespace Sys2Proof.Machine

/-! ### Invariants -/

/-- R29: CT_V ⇒ TREE_V, TREE_V ⇒ FT_V, ENC_V ⇒ CT_V and HDR_V ⇒ FT_V. -/
abbrev Valid.chain (v : Valid) : Prop :=
  (v.ctV = true → v.treeV = true) ∧ (v.treeV = true → v.ftV = true) ∧ (v.encV = true → v.ctV = true)
    ∧ (v.hdrV = true → v.ftV = true)

/-- Some command is running: then its code is legal, LAST_CMD holds it, and DONE, ERR, ERR_CODE and ERR_INFO are as
acceptance left them (R22, R205). -/
abbrev State.engineOk (s : State) : Prop :=
  match s.engine with
  | .idle   => True
  | .busy c => legalCode c = true ∧ s.lastCmd = c ∧ s.done = false ∧ s.err = false ∧ s.errCode = .none ∧ s.errInfo = 0

/-- A buffer's memory is canonical and lists only offsets below its capacity (R44, R69). -/
abbrev Buffer.ok (cap : Nat) (b : Buffer) : Prop := Memory.wf b.cells = true ∧ ∀ c ∈ b.cells, c.1 < cap

/-- Both buffers are. -/
abbrev State.memoryOk (s : State) : Prop := s.msgBuf.ok s.caps.msgCap ∧ s.contBuf.ok s.caps.contCap

/-- R40: symbols pairwise distinct, every count in 1–65535. -/
abbrev Tables.ftOk (t : Tables) : Prop := (t.ft.map Prod.fst).Nodup ∧ ∀ e ∈ t.ft, 1 ≤ e.2 ∧ e.2 ≤ 65535

/-- NODE[0..NODECNT_R−1] (R41). -/
def Tables.arena (t : Tables) : List Node := t.nodes.toList.take t.nodeCnt.val

/-- R28, TREE_V: the arena holds the tree built from the frequency table. -/
abbrev Tables.treeOk (t : Tables) : Prop := (t.arena, t.root) = buildTree t.ft

/-- R28, CT_V: the code table holds the codes of the tree. -/
abbrev Tables.ctOk (t : Tables) : Prop := t.ct = generateCodes t.nodes t.root

/-- What PAD_R and BITLEN_R satisfy when ENC_V = 1: R161's padding, and a payload that fits behind the header (R163). -/
abbrev Tables.encOk (t : Tables) (cap : Nat) : Prop :=
  t.pad.toNat = padOf t.bitLen.toNat ∧ headerLen t.ftN.val + ceil8 t.bitLen.toNat ≤ cap

/-- What the payload descriptors satisfy when HDR_V = 1 (R105, R171, R172). -/
abbrev Tables.hdrOk (t : Tables) (cap : Nat) : Prop :=
  t.payOff.toNat = headerLen t.ftN.val ∧ t.payLen.toNat = ceil8 t.bitLen.toNat ∧ t.pad.toNat = padOf t.bitLen.toNat
    ∧ headerLen t.ftN.val + ceil8 t.bitLen.toNat ≤ cap

/-- Every table whose VALID bit is set is consistent (R28, R40, R41, R43), and the capacities are within R9. -/
abbrev State.tablesOk (s : State) : Prop :=
  s.caps.wf = true ∧ s.valid.chain ∧ (s.valid.ftV = true → s.tables.ftOk) ∧ (s.valid.treeV = true → s.tables.treeOk)
    ∧ (s.valid.ctV = true → s.tables.ctOk) ∧ (s.valid.encV = true → s.tables.encOk s.caps.contCap)
    ∧ (s.valid.hdrV = true → s.tables.hdrOk s.caps.contCap)

/-! ### Results of a command -/

/-- VALID with every bit set (R191). -/
def Valid.all : Valid := { ftV := true, treeV := true, ctV := true, encV := true, hdrV := true }

/-- The state holds a completion with error `c` and detail `info` (R206). -/
abbrev State.failedWith (t : State) (c : ErrorCode) (info : Word) : Prop :=
  t.engine = .idle ∧ t.done = true ∧ t.err = true ∧ t.errCode = c ∧ t.errInfo = info

/-- The state after a success that changed nothing else (R206). -/
def State.completed (s : State) : State := { s with engine := .idle, done := true }

/-- The state after a failure that changed nothing else (R206), as NOT_READY is (R203). -/
def State.failure (s : State) (c : ErrorCode) (info : Word) : State :=
  { s with engine := .idle, done := true, err := true, errCode := c, errInfo := info }

/-- The state after a failing COUNT or READ_HDR: VALID clear, the gated storage unspecified (R131, R172; I8). -/
def State.tablesFailure (s : State) (c : ErrorCode) (info : Word) : State :=
  { s with
    engine := .idle, done := true, err := true, errCode := c, errInfo := info
    valid := Valid.clear, tables := Config.freeTables s.draws, draws := s.draws + 1 }

/-- The state after an ENCODE failure other than NOT_READY: ENC_V cleared (R163). -/
def State.encodeFailure (s : State) (c : ErrorCode) (info : Word) : State :=
  { s with
    engine := .idle, done := true, err := true, errCode := c, errInfo := info
    valid := { s.valid with encV := false } }

/-- The state after a DECODE failure other than NOT_READY: MSG_LEN = 0 and MSG_BUF unspecified (R183; I6). -/
def State.decodeFailure (s : State) (c : ErrorCode) (info : Word) : State :=
  { s with
    engine := .idle, done := true, err := true, errCode := c, errInfo := info
    msgLen := 0, msgBuf := Buffer.unspecified s.draws, draws := s.draws + 1 }

/-- R48's specified rows. -/
abbrev State.resetValues (t : State) : Prop :=
  t.engine = .idle ∧ t.ie = false ∧ t.sym8 = false ∧ t.lastCmd = 0 ∧ t.done = false ∧ t.err = false ∧ t.rej = false
    ∧ t.errCode = .none ∧ t.errInfo = 0 ∧ t.valid.word = 0 ∧ t.msgLen = 0 ∧ t.contLen = 0 ∧ t.codeSel = 0
    ∧ t.statusWord = 0 ∧ t.irq = false

/-- No read shows the gated storage (R48: "not observable"): every gated register and window reads its gated value. -/
abbrev State.tablesHidden (t : State) : Prop :=
  t.regRead .numSyms = 0 ∧ t.regRead .pad = 0 ∧ t.regRead .bitLen = 0 ∧ t.regRead .payOff = 0 ∧ t.regRead .payLen = 0
    ∧ t.regRead .root = 0x1FF ∧ t.regRead .nodeCnt = 0 ∧ t.regRead .codeInfo = 0
    ∧ ∀ k, t.regRead (.codeBits k) = 0 ∧ t.placeRead 4 (.ftEntry k) = 0 ∧ t.placeRead 4 (.nodeFreq k) = 0
      ∧ t.placeRead 4 (.nodeInfo k) = 0

/-- The container: CONT_BUF[0..CONT_LEN−1] (R105). -/
def State.container (s : State) : List Byte := s.contBuf.readList s.caps.contCap 0 s.contLen.toNat

/-- The header fields R108 allows under a symbol mode, for a payload of `p` bytes. -/
abbrev headerAllowed (sym8 : Bool) (ft : FreqTable) (pad : Byte) (p : Nat) : Prop :=
  ft.length ≤ 256 ∧ (ft.map Prod.fst).Nodup ∧ (∀ e ∈ ft, tooWide sym8 e.1 = false ∧ 1 ≤ e.2 ∧ e.2 ≤ 65535)
    ∧ pad.toNat ≤ 7 ∧ (p = 0 → pad = 0)

/-- R207's row of a command: VALID after it, from VALID before it and its outcome. A composite's failure is its failing
stage's (R194): READ_HDR's or COUNT's clears all, COMPRESS's CAPACITY is ENCODE's, and a DECODE failure keeps 0x13. -/
def validAfter (i : Instr) (v : Valid) (outcome : Option ErrorCode) : Valid :=
  match i, outcome with
  | .nop, _                => v
  | .count, none           => Valid.afterCount
  | .count, some _         => Valid.clear
  | .build, none           => v.afterBuild
  | .build, some _         => v
  | .gen, none             => v.afterGen
  | .gen, some _           => v
  | .encode, none          => v.afterEncode
  | .encode, some .notReady => v
  | .encode, some _        => v.afterEncodeFailure
  | .writeHdr, none        => v.afterWriteHdr
  | .writeHdr, some _      => v
  | .readHdr, none         => Valid.afterReadHdr
  | .readHdr, some _       => Valid.clear
  | .decode, _             => v
  | .compress, none        => Valid.all
  | .compress, some .capacity => { Valid.clear with ftV := true, treeV := true, ctV := true }
  | .compress, some _      => Valid.clear
  | .decompress, none      => { Valid.afterReadHdr with treeV := true }
  | .decompress, some .malformedStream => { Valid.afterReadHdr with treeV := true }
  | .decompress, some .capacity => { Valid.afterReadHdr with treeV := true }
  | .decompress, some _    => Valid.clear
  | .inspect, none         => { Valid.afterReadHdr with treeV := true }
  | .inspect, some _       => Valid.clear

/-! ### The tree, seen from the spec's side -/

/-- The node index reached from `i` by taking the edges of `path` (0 left, 1 right); none past a leaf (R14, R180). -/
def follow (nodes : Vector Node 511) : BitVec 9 → Bits → Option (BitVec 9)
  | i, []        => some i
  | i, b :: path =>
    match nodeAt nodes i with
    | .leaf _ _              => none
    | .internal _ left right => follow nodes (if b then right else left) path

/-- `(FREQ, q)` of one node comes before that of another, lexicographically (R142). -/
def before (arena : List Node) (a b : Nat) : Bool :=
  decide (freqOf arena a < freqOf arena b) || (decide (freqOf arena a = freqOf arena b) && decide (a ≤ b))

/-- The node of a nonempty working set that is smallest in the order (FREQ, q), starting from `a` (R142). -/
def leastOf (arena : List Node) (a : Nat) : List Nat → Nat
  | []     => a
  | b :: w => if before arena a b then leastOf arena a w else leastOf arena b w

/-- R142's "stable min-heap keyed by (frequency, insertion sequence number)" form of the builder's loop: take the smallest
node twice, no sorting. -/
def heapLoop : Nat → List Node → List Nat → List Node × List Nat
  | 0, arena, w        => (arena, w)
  | fuel + 1, arena, w =>
    match w with
    | x :: y :: rest =>
      let a := leastOf arena x (y :: rest)
      match w.erase a with
      | z :: rest' =>
        let b := leastOf arena z rest'
        heapLoop fuel
          (arena ++ [.internal (BitVec.ofNat 32 (freqOf arena a + freqOf arena b)) (BitVec.ofNat 9 a) (BitVec.ofNat 9 b)])
          ((w.erase a).erase b ++ [arena.length])
      | [] => (arena, w)
    | _ => (arena, w)

/-- `build_tree` by the heap form (R142). -/
def heapBuildTree (ft : FreqTable) : List Node × BitVec 9 :=
  match heapLoop (ft.length - 1) (leavesOf ft) (List.range ft.length) with
  | (arena, r :: _) => (arena, BitVec.ofNat 9 r)
  | (arena, [])     => (arena, noneIndex)

/-- The bits of a payload that decode to `out` under a table and its codes: the concatenated codes, or none for a single
symbol's repeats and for an empty table (R153, R160, R183). -/
abbrev decodesTo (ft : FreqTable) (codes : Vector (Option Bits) 256) (bits : Bits) (out : List Byte) : Prop :=
  match ft with
  | []        => bits = [] ∧ out = []
  | [(m, n)]  => bits = [] ∧ out = List.replicate n m
  | _ :: _ :: _ => bits = encodeBits codes out ∧ ∀ m ∈ out, (ctAt codes m).isSome = true

/-- The codes of a table's tree, over an arena of any other contents (R150). -/
def codesOf (ft : FreqTable) (nodes : Vector Node 511) : Vector (Option Bits) 256 :=
  generateCodes (overlay (buildTree ft).1 nodes) (buildTree ft).2

end Sys2Proof.Machine
end

