-- ==== Sys2Proof/Certificates/Slice0/Obligations.lean ====
section
/-! DEFINITION. The statements for the provers. Each docstring names the rules of spec/ it formalises; OBLIGATIONS.json lists them. -/

open Sys2Proof Sys2Proof.Machine

/-! ### Decoding and stepping -/

/-- R90, R95, R96: the eleven codes; a CMD word decodes to a command exactly where its low byte is the command's code,
whatever stands in bits 31:8; and the encoder's word and its bus bytes decode back. -/
def Obligations.WordsDecodeExactlyByTheirLowByte : Prop :=
  (∀ (i : Instr) (w : Word), decodeWord w = .ok i ↔ ∃ high : BitVec 24, w = high ++ opcode i) ∧
  (∀ i : Instr, decodeWord (encode i) = .ok i ∧ decodeBytes (encodeBytes i) = .ok (i, [])) ∧
  (∀ (i : Instr) (b0 b1 b2 b3 : Byte) (rest : List Byte),
    decodeBytes (b0 :: b1 :: b2 :: b3 :: rest) = .ok (i, rest) ↔ b0 = opcode i)

/-- R97: which codes are legal, and that the decoder refuses every other code by name. -/
def Obligations.UnlistedCodesAreRefusedByName : Prop :=
  ∀ c : Byte,
    (legalCode c = true ↔ c.toNat ≤ 0x07 ∨ (0x10 ≤ c.toNat ∧ c.toNat ≤ 0x12)) ∧
    (legalCode c = true → ∃ i, decodeOpc c = .ok i) ∧
    (legalCode c = false → decodeOpc c = .error (.illegalCode c))

/-- R95, R96: words written out bit by bit from the encoding decode to their commands (a sanity statement). -/
def Obligations.WrittenOutWordsDecode : Prop :=
  decodeWord 0b00000000000000000000000000000001#32 = .ok .count ∧
  decodeWord 0b00000000000000000000000000000010#32 = .ok .build ∧
  decodeWord 0b00000000000000000000000000000011#32 = .ok .gen ∧
  decodeWord 0b00000000000000000000000000000100#32 = .ok .encode ∧
  decodeWord 0b00000000000000000000000000000110#32 = .ok .readHdr ∧
  decodeWord 0b00000000000000000000000000000111#32 = .ok .decode ∧
  decodeWord 0b00000000000000000000000000010000#32 = .ok .compress ∧
  decodeWord 0b11111111111111111111111100000001#32 = .ok .count

/-- R22, R72, R206: when ENGINE = BUSY(c), c is a command's code, and the host waits or has nothing pending, the step is that
command's meaning, with nothing added around it. -/
def Obligations.StepRunsTheRunningCommand : Prop :=
  ∀ (s : State) (c : Byte) (i : Instr), s.engine = .busy c → decodeOpc c = .ok i →
    (s.events = [] ∨ ∃ rest, s.events = .wait :: rest) → step s = exec i s

/-- R90, R205 (the placing of a word is the model's own, log entry 2): a table word that decodes to a command, placed by
withFetchWord, is what the very next step runs, and placing it changes only what acceptance changes and the pending inputs. -/
def Obligations.PlacedWordIsRunByTheNextStep : Prop :=
  ∀ (s : State) (nbits w : Nat) (i : Instr), decodeTableWord nbits w = some i →
    step (s.withFetchWord nbits w) = exec i (s.withFetchWord nbits w) ∧
    s.withFetchWord nbits w =
      { s with
        engine := .busy (opcode i), lastCmd := opcode i, done := false, err := false, errCode := .none, errInfo := 0
        events := .wait :: s.events }

/-- R206, R245: from every state every command completes: ENGINE = IDLE and DONE = 1, and either no error is recorded or one of
the command errors of R200 is. -/
def Obligations.EveryCommandCompletes : Prop :=
  ∀ (i : Instr) (s : State), ∃ t, exec i s = .next t ∧ t.engine = .idle ∧ t.done = true ∧
    ((t.err = s.err ∧ t.errCode = s.errCode ∧ t.errInfo = s.errInfo) ∨
     (t.err = true ∧ t.errCode ≠ .none ∧ t.errCode ≠ .illegalCmd))

/-- R190: NOP completes and does nothing else. -/
def Obligations.NopOnlyCompletes : Prop :=
  ∀ s : State, exec .nop s = .next { s with engine := .idle, done := true }

/-! ### COUNT -/

/-- R130, R131: where the length and every byte are in bounds and no symbol occurs more than 65535 times, COUNT stores
count_frequencies of the message (in order of first occurrence, each count the number of occurrences) and sets VALID to FT_V
alone; nothing else changes (entries past the table keep what stood there: the model's choice, log entry 18). -/
def Obligations.CountTabulatesTheMessage : Prop :=
  ∀ s : State, s.msgLen.toNat ≤ s.caps.msgCap → (∀ m ∈ s.message, tooWide s.sym8 m = false) →
    (∀ m, s.message.count m ≤ 65535) →
    exec .count s = .next { s with
      tables := s.tables.setFt (countFrequencies s.message)
      valid := { ftV := true, treeV := false, ctV := false, encV := false, hdrV := false }
      engine := .idle, done := true } ∧
    (s.tables.setFt (countFrequencies s.message)).ft = countFrequencies s.message ∧
    (countFrequencies s.message).map Prod.fst = s.message.eraseDups ∧
    (∀ e ∈ countFrequencies s.message, e.2 = s.message.count e.1)

/-- R132: after a successful COUNT (FT_V = 1, which a failure clears), FT_N is the number of distinct message bytes, the counts
sum to MSG_LEN, and each lies in 1–65535. -/
def Obligations.CountedTableMeasuresTheMessage : Prop :=
  ∀ s t : State, exec .count s = .next t → t.valid.ftV = true →
    t.tables.ftN.val = s.message.toFinset.card ∧ (t.tables.ft.map Prod.snd).sum = s.msgLen.toNat ∧
    ∀ e ∈ t.tables.ft, 1 ≤ e.2 ∧ e.2 ≤ 65535

/-- R131, R200, R202: COUNT's errors, the first check to fail in order: BAD_LENGTH; then at the first offending offset
SYMBOL_WIDTH before FREQ_OVERFLOW. The failure clears VALID and leaves the gated storage unspecified (log entry 6: all of it, I8,
a free value: the statement holds for every value of it); nothing else changes. -/
def Obligations.CountReportsTheFirstOffendingByte : Prop :=
  (∀ s : State, s.caps.msgCap < s.msgLen.toNat → exec .count s = .next (s.tablesFailure .badLength s.msgLen)) ∧
  (∀ (s : State) (pre post : List Byte) (m : Byte), s.msgLen.toNat ≤ s.caps.msgCap → s.message = pre ++ m :: post →
    (∀ x ∈ pre, tooWide s.sym8 x = false) → (∀ x, pre.count x ≤ 65535) →
    (tooWide s.sym8 m = true →
      exec .count s = .next (s.tablesFailure .symbolWidth (m.setWidth 32 <<< 24 ||| BitVec.ofNat 32 pre.length))) ∧
    (tooWide s.sym8 m = false → pre.count m = 65535 →
      exec .count s = .next (s.tablesFailure .freqOverflow (m.setWidth 32 <<< 24 ||| BitVec.ofNat 32 pre.length))))

/-! ### BUILD -/

/-- R140, R141: with FT_V = 1, BUILD stores build_tree of the table, sets TREE_V and clears CT_V and ENC_V; the arena and root
read back as build_tree's, the table stays, and nothing else changes (nodes past the arena keep what stood there: the model's
choice, log entry 18). -/
def Obligations.BuildStoresTheTree : Prop :=
  ∀ s : State, s.valid.ftV = true →
    exec .build s = .next { s with
      tables := s.tables.setTree (buildTree s.tables.ft)
      valid := { s.valid with treeV := true, ctV := false, encV := false }
      engine := .idle, done := true } ∧
    ((s.tables.setTree (buildTree s.tables.ft)).arena, (s.tables.setTree (buildTree s.tables.ft)).root)
      = buildTree s.tables.ft ∧
    (s.tables.setTree (buildTree s.tables.ft)).ft = s.tables.ft

/-- R142: the stable sort of R140 and the selection of the two nodes smallest in (FREQ, q), lexicographically, with no sorting,
build the same arena and root from every table. -/
def Obligations.StableSortBuilderEqualsTheHeapBuilder : Prop :=
  ∀ ft : FreqTable, heapBuildTree ft = buildTree ft

/-- R144: the tree's shape when TREE_V = 1. -/
def Obligations.BuiltTreeIsFullAndShallow : Prop :=
  ∀ s : State, s.tablesOk → s.valid.treeV = true →
    (∀ (i : Nat) (f : BitVec 32) (l r : BitVec 9), s.tables.arena[i]? = some (.internal f l r) →
      l.toNat < i ∧ r.toNat < i) ∧
    (∀ i, i < s.tables.nodeCnt.val → i ≠ s.tables.root.toNat →
      ∃! p : Nat × Bool, ∃ f l r, s.tables.arena[p.1]? = some (.internal f l r) ∧ (if p.2 then r else l).toNat = i) ∧
    (1 ≤ s.tables.ftN.val →
      s.tables.root.toNat = s.tables.nodeCnt.val - 1 ∧
      (nodeAt s.tables.nodes s.tables.root).freq.toNat = (s.tables.ft.map Prod.snd).sum) ∧
    (s.tables.root ≠ noneIndex → ∀ (path : Bits) (j : BitVec 9),
      follow s.tables.nodes s.tables.root path = some j → path.length ≤ s.tables.ftN.val - 1) ∧
    s.tables.ftN.val - 1 ≤ 255

/-- R42: no FREQ of a valid tree exceeds 256 · 65535, and an internal node's is exactly its children's sum, with no wrap. -/
def Obligations.NodeFrequenciesNeverOverflow : Prop :=
  ∀ s : State, s.tablesOk → s.valid.treeV = true →
    ∀ (i : Nat) (n : Node), s.tables.arena[i]? = some n →
      n.freq.toNat ≤ 16776960 ∧
      ∀ (f : BitVec 32) (l r : BitVec 9), n = .internal f l r →
        f.toNat = freqOf s.tables.arena l.toNat + freqOf s.tables.arena r.toNat

/-! ### GEN -/

/-- R151: with TREE_V = 1, GEN stores generate_codes of the arena and root, sets CT_V and clears ENC_V; nothing else changes. -/
def Obligations.GenStoresTheCodes : Prop :=
  ∀ s : State, s.valid.treeV = true →
    exec .gen s = .next { s with
      tables := { s.tables with ct := generateCodes s.tables.nodes s.tables.root }
      valid := { s.valid with ctV := true, encV := false }
      engine := .idle, done := true }

/-- R150: after GEN on a valid tree, a symbol has a code exactly where the tree has a leaf of that symbol, and the code is the
path of edges from the root to it. -/
def Obligations.CodesAreTheRootToLeafPaths : Prop :=
  ∀ s : State, s.tablesOk → s.valid.treeV = true →
    ∃ t, exec .gen s = .next t ∧
      ∀ (sym : Byte) (c : Bits), ctAt t.tables.ct sym = some c ↔
        s.tables.root ≠ noneIndex ∧
        ∃ j f, follow s.tables.nodes s.tables.root c = some j ∧ nodeAt s.tables.nodes j = .leaf sym f

/-- R43, R151, R152: when CT_V = 1, exactly the table's symbols have codes; no code is a prefix of another symbol's; with two
symbols or more every code has a bit; none is longer than 255 bits; and with at least one symbol Σ 2^(−len) = 1. -/
def Obligations.CodesArePrefixFreeAndComplete : Prop :=
  ∀ s : State, s.tablesOk → s.valid.ctV = true →
    (∀ m, (ctAt s.tables.ct m).isSome = true ↔ m ∈ s.tables.ft.map Prod.fst) ∧
    (∀ (a b : Byte) (ca cb : Bits), a ≠ b → ctAt s.tables.ct a = some ca → ctAt s.tables.ct b = some cb → ¬ ca <+: cb) ∧
    (2 ≤ s.tables.ftN.val → ∀ (m : Byte) (c : Bits), ctAt s.tables.ct m = some c → 1 ≤ c.length) ∧
    (∀ (m : Byte) (c : Bits), ctAt s.tables.ct m = some c → c.length ≤ 255) ∧
    (1 ≤ s.tables.ftN.val →
      (s.tables.ft.map fun e => 2 ^ (255 - ((ctAt s.tables.ct e.1).getD []).length)).sum = 2 ^ 255)

/-! ### ENCODE and packing -/

/-- R160, R163: with CT_V = 1, the length in bounds, every byte allowed and with a code, and room in CONT_BUF, ENCODE writes the
packed codes from offset 5 + 3·FT_N, where they read back, records PAD_R and BITLEN_R, sets ENC_V and clears HDR_V; nothing else
changes. -/
def Obligations.EncodePacksTheMessage : Prop :=
  ∀ s : State, s.valid.ctV = true → s.msgLen.toNat ≤ s.caps.msgCap →
    (∀ m ∈ s.message, tooWide s.sym8 m = false ∧ (ctAt s.tables.ct m).isSome = true) →
    5 + 3 * s.tables.ftN.val + ceil8 (encodeBits s.tables.ct s.message).length ≤ s.caps.contCap →
    exec .encode s = .next { s with
      contBuf := s.contBuf.writeList s.caps.contCap (5 + 3 * s.tables.ftN.val) (pack (encodeBits s.tables.ct s.message)).1
      tables := { s.tables with
        bitLen := BitVec.ofNat 32 (encodeBits s.tables.ct s.message).length
        pad := BitVec.ofNat 3 (pack (encodeBits s.tables.ct s.message)).2 }
      valid := { s.valid with encV := true, hdrV := false }
      engine := .idle, done := true } ∧
    (s.contBuf.writeList s.caps.contCap (5 + 3 * s.tables.ftN.val) (pack (encodeBits s.tables.ct s.message)).1).readList
      s.caps.contCap (5 + 3 * s.tables.ftN.val) (ceil8 (encodeBits s.tables.ct s.message).length)
      = (pack (encodeBits s.tables.ct s.message)).1

/-- R164: after a successful ENCODE (ENC_V = 1, which a failure clears), BITLEN_R is the sum of the code lengths, PAD_R follows
from it, and the payload is exactly ceil8(BITLEN_R) bytes from 5 + 3·FT_N; BITLEN_R ≤ MSG_CAP · 255 < 2^28. -/
def Obligations.EncodedLengthAndPaddingAgree : Prop :=
  ∀ s t : State, s.tablesOk → exec .encode s = .next t → t.valid.encV = true →
    t.tables.bitLen.toNat = (s.message.map fun m => ((ctAt s.tables.ct m).getD []).length).sum ∧
    t.tables.pad.toNat = (8 - t.tables.bitLen.toNat % 8) % 8 ∧
    t.contBuf.readList s.caps.contCap (5 + 3 * s.tables.ftN.val) (ceil8 t.tables.bitLen.toNat)
      = (pack (encodeBits s.tables.ct s.message)).1 ∧
    (∀ a, a < 5 + 3 * s.tables.ftN.val ∨ 5 + 3 * s.tables.ftN.val + ceil8 t.tables.bitLen.toNat ≤ a →
      t.contRead a = s.contRead a) ∧
    t.tables.bitLen.toNat ≤ s.caps.msgCap * 255 ∧ s.caps.msgCap * 255 < 2 ^ 28

/-- R163, R200, R202: ENCODE's errors past NOT_READY, the first check to fail in order: BAD_LENGTH; at the first offending
offset SYMBOL_WIDTH before UNKNOWN_SYMBOL; CAPACITY. A failure only clears ENC_V: no CONT_BUF byte, PAD_R or BITLEN_R changes. -/
def Obligations.EncodeFailureOnlyClearsEncV : Prop :=
  (∀ s : State, s.valid.ctV = true → s.caps.msgCap < s.msgLen.toNat →
    exec .encode s = .next (s.encodeFailure .badLength s.msgLen)) ∧
  (∀ (s : State) (pre post : List Byte) (m : Byte), s.valid.ctV = true → s.msgLen.toNat ≤ s.caps.msgCap →
    s.message = pre ++ m :: post → (∀ x ∈ pre, tooWide s.sym8 x = false ∧ (ctAt s.tables.ct x).isSome = true) →
    (tooWide s.sym8 m = true →
      exec .encode s = .next (s.encodeFailure .symbolWidth (m.setWidth 32 <<< 24 ||| BitVec.ofNat 32 pre.length))) ∧
    (tooWide s.sym8 m = false → ctAt s.tables.ct m = none →
      exec .encode s = .next (s.encodeFailure .unknownSymbol (m.setWidth 32 <<< 24 ||| BitVec.ofNat 32 pre.length)))) ∧
  (∀ s : State, s.valid.ctV = true → s.msgLen.toNat ≤ s.caps.msgCap →
    (∀ m ∈ s.message, tooWide s.sym8 m = false ∧ (ctAt s.tables.ct m).isSome = true) →
    s.caps.contCap < 5 + 3 * s.tables.ftN.val + ceil8 (encodeBits s.tables.ct s.message).length →
    exec .encode s = .next (s.encodeFailure .capacity
      (BitVec.ofNat 32 (5 + 3 * s.tables.ftN.val + ceil8 (encodeBits s.tables.ct s.message).length))))

/-- R182: unpack(pack(s)) = s for every bit string. -/
def Obligations.UnpackInvertsPack : Prop :=
  ∀ bits : Bits, unpack (pack bits).1 (pack bits).2 = bits

/-- R161, R162: pack's pad lies in 0–7, the bytes are ceil8 of the bits, and the padding bits are 0. -/
def Obligations.PackPadsWithZeroBits : Prop :=
  ∀ bits : Bits,
    (pack bits).2 = (8 - bits.length % 8) % 8 ∧ (pack bits).2 ≤ 7 ∧ (pack bits).1.length = ceil8 bits.length ∧
    unpack (pack bits).1 0 = bits ++ List.replicate (pack bits).2 false

/-- R181: unpack's length and bits, most significant first; the removed padding bits do not matter. -/
def Obligations.UnpackReadsBitsMostSignificantFirst : Prop :=
  (∀ (bytes : List Byte) (pad : Nat),
    (unpack bytes pad).length = 8 * bytes.length - pad ∧
    ∀ j, j < 8 * bytes.length - pad → (unpack bytes pad)[j]? = (bytes[j / 8]?).map fun b => b.getLsbD (7 - j % 8)) ∧
  (∀ (bytes : List Byte) (x y : Byte) (pad : Nat), pad ≤ 7 → (∀ k, pad ≤ k → x.getLsbD k = y.getLsbD k) →
    unpack (bytes ++ [x]) pad = unpack (bytes ++ [y]) pad)

/-! ### WRITE_HDR and READ_HDR -/

/-- R170, R171: with ENC_V = 1, WRITE_HDR writes the header bytes from offset 0, where they read back if they fit CONT_BUF, sets
CONT_LEN = H + P and the payload descriptors, and sets HDR_V; nothing else changes. -/
def Obligations.WriteHdrPutsTheHeaderInFront : Prop :=
  ∀ s : State, s.valid.encV = true →
    exec .writeHdr s = .next { s with
      contBuf := s.contBuf.writeList s.caps.contCap 0 (headerBytes s.tables.ft (s.tables.pad.setWidth 8))
      contLen := BitVec.ofNat 32 (5 + 3 * s.tables.ftN.val + ceil8 s.tables.bitLen.toNat)
      tables := { s.tables with
        payOff := BitVec.ofNat 32 (5 + 3 * s.tables.ftN.val), payLen := BitVec.ofNat 32 (ceil8 s.tables.bitLen.toNat) }
      valid := { s.valid with hdrV := true }
      engine := .idle, done := true } ∧
    (5 + 3 * s.tables.ftN.val ≤ s.caps.contCap →
      (s.contBuf.writeList s.caps.contCap 0 (headerBytes s.tables.ft (s.tables.pad.setWidth 8))).readList
        s.caps.contCap 0 (5 + 3 * s.tables.ftN.val)
        = be32 s.tables.ft.length
          ++ (s.tables.ft.flatMap fun e => [e.1, BitVec.ofNat 8 (e.2 % 65536 / 256), BitVec.ofNat 8 (e.2 % 65536)])
          ++ [s.tables.pad.setWidth 8])

/-- R108, R172: READ_HDR of a container that is an allowed header and a payload restores the table in its stored order and the
payload descriptors, and sets FT_V and HDR_V alone; nothing outside the tables changes. -/
def Obligations.ReadHdrRestoresTheTable : Prop :=
  ∀ (s : State) (ft : FreqTable) (pad : Byte) (payload : List Byte), s.caps.wf = true →
    s.contLen.toNat ≤ s.caps.contCap → s.container = headerBytes ft pad ++ payload →
    headerAllowed s.sym8 ft pad payload.length →
    ∃ t, exec .readHdr s = .next t ∧
      t = { s with
        tables := t.tables
        valid := { ftV := true, treeV := false, ctV := false, encV := false, hdrV := true }
        engine := .idle, done := true } ∧
      t.tables.ft = ft ∧ t.tables.ftN.val = ft.length ∧ t.tables.pad.toNat = pad.toNat ∧
      t.tables.payOff.toNat = 5 + 3 * ft.length ∧ t.tables.payLen.toNat = payload.length ∧
      t.tables.bitLen.toNat = 8 * payload.length - pad.toNat ∧
      t.tables.nodes = s.tables.nodes ∧ t.tables.nodeCnt = s.tables.nodeCnt ∧ t.tables.root = s.tables.root ∧
      t.tables.ct = s.tables.ct

/-- R172, R200, R202: READ_HDR's errors in the order of its checks, each with its field's offset: BAD_LENGTH; a container shorter
than 4 bytes, a count past the end or above 256; the first entry with a symbol too wide or repeated, or a zero count; padding above
7, or nonzero before an empty payload. A failure clears VALID and leaves the gated storage unspecified (log entry 6). -/
def Obligations.ReadHdrRejectsTheFirstBadField : Prop :=
  (∀ s : State, s.caps.contCap < s.contLen.toNat → exec .readHdr s = .next (s.tablesFailure .badLength s.contLen)) ∧
  (∀ s : State, s.contLen.toNat ≤ s.caps.contCap → s.contLen.toNat < 4 →
    exec .readHdr s = .next (s.tablesFailure .corruptHeader 0)) ∧
  (∀ (s : State) (n : Nat) (rest : List Byte), s.contLen.toNat ≤ s.caps.contCap → n < 2 ^ 32 →
    s.container = be32 n ++ rest → (s.contLen.toNat < 5 + 3 * n ∨ 256 < n) →
    exec .readHdr s = .next (s.tablesFailure .corruptHeader 0)) ∧
  (∀ (s : State) (n : Nat) (ft : FreqTable) (m hi lo : Byte) (rest : List Byte), s.contLen.toNat ≤ s.caps.contCap →
    n ≤ 256 → 5 + 3 * n ≤ s.contLen.toNat → ft.length < n →
    s.container = be32 n ++ ft.flatMap entryBytes ++ [m, hi, lo] ++ rest →
    headerAllowed s.sym8 ft 0 0 →
    ((tooWide s.sym8 m = true ∨ m ∈ ft.map Prod.fst) →
      exec .readHdr s = .next (s.tablesFailure .corruptHeader (BitVec.ofNat 32 (4 + 3 * ft.length)))) ∧
    (tooWide s.sym8 m = false → m ∉ ft.map Prod.fst → hi = 0 → lo = 0 →
      exec .readHdr s = .next (s.tablesFailure .corruptHeader (BitVec.ofNat 32 (5 + 3 * ft.length))))) ∧
  (∀ (s : State) (ft : FreqTable) (pad : Byte) (payload : List Byte), s.contLen.toNat ≤ s.caps.contCap →
    s.container = headerBytes ft pad ++ payload → headerAllowed s.sym8 ft 0 0 →
    (7 < pad.toNat ∨ (payload = [] ∧ pad ≠ 0)) →
    exec .readHdr s = .next (s.tablesFailure .corruptHeader (BitVec.ofNat 32 (4 + 3 * ft.length))))

/-- R173: WRITE_HDR, then READ_HDR of the same CONT_BUF and CONT_LEN under the same SYM8, restores the table and all four payload
descriptors; BUILD then rebuilds the tree. -/
def Obligations.ReadHdrUndoesWriteHdr : Prop :=
  ∀ s : State, s.tablesOk → s.valid.encV = true → (∀ e ∈ s.tables.ft, tooWide s.sym8 e.1 = false) →
    ∃ t, exec .writeHdr s = .next t ∧
      ∀ r : State, r.contBuf = t.contBuf → r.contLen = t.contLen → r.sym8 = t.sym8 → r.caps = t.caps →
        ∃ u, exec .readHdr r = .next u ∧ u.err = r.err ∧ u.valid.ftV = true ∧ u.valid.hdrV = true ∧
          u.tables.ftN = s.tables.ftN ∧ u.tables.ft = s.tables.ft ∧ u.tables.pad = s.tables.pad ∧
          u.tables.bitLen = s.tables.bitLen ∧ u.tables.payOff = t.tables.payOff ∧ u.tables.payLen = t.tables.payLen ∧
          ∃ v, exec .build u = .next v ∧ v.tables.arena = s.tables.arena ∧ v.tables.root = s.tables.root

/-! ### DECODE -/

/-- R153, R180, R183: with TREE_V = HDR_V = 1 and a payload whose bits are the concatenated codes of symbols that fit MSG_BUF (no
bits for a single symbol, repeated as often as its count, or for an empty table), DECODE writes those symbols from offset 0, where
they read back, and sets MSG_LEN; nothing else changes. -/
def Obligations.DecodeRecoversTheSymbols : Prop :=
  ∀ (s : State) (out : List Byte), s.tablesOk → s.valid.treeV = true → s.valid.hdrV = true →
    out.length ≤ s.caps.msgCap →
    decodesTo s.tables.ft (generateCodes s.tables.nodes s.tables.root) (unpack s.payload s.tables.pad.toNat) out →
    exec .decode s = .next { s with
      msgBuf := s.msgBuf.writeList s.caps.msgCap 0 out
      msgLen := BitVec.ofNat 32 out.length
      engine := .idle, done := true } ∧
    (s.msgBuf.writeList s.caps.msgCap 0 out).readList s.caps.msgCap 0 out.length = out

/-- R180, R183, R202: DECODE's errors past NOT_READY: bits for an empty or single-leaf tree; a single leaf's count above MSG_CAP;
bits that end inside a code; a code that completes after MSG_CAP symbols. Each leaves MSG_LEN = 0 and MSG_BUF unspecified (a free
value: the statement holds for every value of it), and nothing else changed. -/
def Obligations.DecodeReportsMalformedStreamsAndOverflow : Prop :=
  ∀ s : State, s.tablesOk → s.valid.treeV = true → s.valid.hdrV = true →
    (s.tables.ftN.val ≤ 1 → unpack s.payload s.tables.pad.toNat ≠ [] →
      exec .decode s = .next (s.decodeFailure .malformedStream 0)) ∧
    (∀ (m : Byte) (n : Nat), s.tables.ft = [(m, n)] → unpack s.payload s.tables.pad.toNat = [] → s.caps.msgCap < n →
      exec .decode s = .next (s.decodeFailure .capacity (BitVec.ofNat 32 n))) ∧
    (∀ (out : List Byte) (rest : Bits) (j l r : BitVec 9) (f : BitVec 32), 2 ≤ s.tables.ftN.val →
      out.length ≤ s.caps.msgCap →
      (∀ m ∈ out, (ctAt (generateCodes s.tables.nodes s.tables.root) m).isSome = true) →
      unpack s.payload s.tables.pad.toNat = encodeBits (generateCodes s.tables.nodes s.tables.root) out ++ rest →
      rest ≠ [] → follow s.tables.nodes s.tables.root rest = some j → nodeAt s.tables.nodes j = .internal f l r →
      exec .decode s = .next (s.decodeFailure .malformedStream
        (BitVec.ofNat 32 (encodeBits (generateCodes s.tables.nodes s.tables.root) out).length))) ∧
    (∀ (out : List Byte) (m : Byte) (c rest : Bits), 2 ≤ s.tables.ftN.val → out.length = s.caps.msgCap →
      (∀ x ∈ out, (ctAt (generateCodes s.tables.nodes s.tables.root) x).isSome = true) →
      ctAt (generateCodes s.tables.nodes s.tables.root) m = some c →
      unpack s.payload s.tables.pad.toNat = encodeBits (generateCodes s.tables.nodes s.tables.root) out ++ c ++ rest →
      exec .decode s = .next (s.decodeFailure .capacity
        (BitVec.ofNat 32 (encodeBits (generateCodes s.tables.nodes s.tables.root) out).length)))

/-! ### Composite commands -/

/-- R106, R191: where the message is in bounds, every byte allowed and counted at most 65535 times, and the container fits
CONT_BUF, COMPRESS leaves the table, tree and codes of the message and its container, with all five VALID bits set, CONT_LEN =
4 + 3N + 1 + ceil8(BITLEN), and the message untouched. -/
def Obligations.CompressWritesTheContainer : Prop :=
  ∀ (s : State) (ft : FreqTable) (bits : Bits), s.caps.wf = true → s.msgLen.toNat ≤ s.caps.msgCap →
    (∀ m ∈ s.message, tooWide s.sym8 m = false) → (∀ m, s.message.count m ≤ 65535) →
    ft = countFrequencies s.message → bits = encodeBits (codesOf ft s.tables.nodes) s.message →
    5 + 3 * ft.length + ceil8 bits.length ≤ s.caps.contCap →
    ∃ t, exec .compress s = .next t ∧
      t = { s with
        tables := t.tables, contBuf := t.contBuf, contLen := t.contLen
        valid := { ftV := true, treeV := true, ctV := true, encV := true, hdrV := true }
        engine := .idle, done := true } ∧
      t.tables.ft = ft ∧ (t.tables.arena, t.tables.root) = buildTree ft ∧ t.tables.ct = codesOf ft s.tables.nodes ∧
      t.contLen.toNat = 4 + 3 * ft.length + 1 + ceil8 bits.length ∧
      t.container = headerBytes ft (BitVec.ofNat 8 (pack bits).2) ++ (pack bits).1 ∧
      t.tables.bitLen.toNat = bits.length ∧ t.tables.pad.toNat = (pack bits).2 ∧
      t.tables.payOff.toNat = 5 + 3 * ft.length ∧ t.tables.payLen.toNat = ceil8 bits.length

/-- R192: DECOMPRESS of an allowed header and a payload whose bits decode to symbols that fit MSG_BUF leaves the table, the tree,
the four payload descriptors and those symbols as the message, with VALID = 0x13, and the container untouched. -/
def Obligations.DecompressRecoversTheSymbols : Prop :=
  ∀ (s : State) (ft : FreqTable) (pad : Byte) (payload out : List Byte), s.caps.wf = true →
    s.contLen.toNat ≤ s.caps.contCap → s.container = headerBytes ft pad ++ payload →
    headerAllowed s.sym8 ft pad payload.length → out.length ≤ s.caps.msgCap →
    decodesTo ft (codesOf ft s.tables.nodes) (unpack payload pad.toNat) out →
    ∃ t, exec .decompress s = .next t ∧
      t = { s with
        tables := t.tables, msgBuf := t.msgBuf, msgLen := t.msgLen
        valid := { ftV := true, treeV := true, ctV := false, encV := false, hdrV := true }
        engine := .idle, done := true } ∧
      t.tables.ft = ft ∧ (t.tables.arena, t.tables.root) = buildTree ft ∧ t.tables.pad.toNat = pad.toNat ∧
      t.tables.bitLen.toNat = 8 * payload.length - pad.toNat ∧
      t.tables.payOff.toNat = 5 + 3 * ft.length ∧ t.tables.payLen.toNat = payload.length ∧
      t.msgLen.toNat = out.length ∧ t.message = out

/-- R193: INSPECT of an allowed header and any payload leaves the table, the tree and the four payload descriptors, with VALID =
0x13, and writes neither buffer and neither length register. -/
def Obligations.InspectRebuildsTableAndTree : Prop :=
  ∀ (s : State) (ft : FreqTable) (pad : Byte) (payload : List Byte), s.caps.wf = true →
    s.contLen.toNat ≤ s.caps.contCap → s.container = headerBytes ft pad ++ payload →
    headerAllowed s.sym8 ft pad payload.length →
    ∃ t, exec .inspect s = .next t ∧
      t = { s with
        tables := t.tables
        valid := { ftV := true, treeV := true, ctV := false, encV := false, hdrV := true }
        engine := .idle, done := true } ∧
      t.tables.ft = ft ∧ (t.tables.arena, t.tables.root) = buildTree ft ∧ t.tables.pad.toNat = pad.toNat ∧
      t.tables.bitLen.toNat = 8 * payload.length - pad.toNat ∧
      t.tables.payOff.toNat = 5 + 3 * ft.length ∧ t.tables.payLen.toNat = payload.length

/-- R191–R194: from a state whose ERR is clear, as acceptance leaves it, a composite is its stages in order, ending at the first
that fails with that stage's state and, for COMPRESS, CONT_LEN = 0, for DECOMPRESS, MSG_LEN = 0. -/
def Obligations.CompositesRunTheirStagesInOrder : Prop :=
  ∀ s : State, s.err = false →
    (∀ a b c d e : State, exec .count s = .next a →
      (a.err = true → exec .compress s = .next { a with contLen := 0 }) ∧
      (a.err = false → exec .build a = .next b → exec .gen b = .next c → exec .encode c = .next d →
        (d.err = true → exec .compress s = .next { d with contLen := 0 }) ∧
        (d.err = false → exec .writeHdr d = .next e → exec .compress s = .next e))) ∧
    (∀ a b c : State, exec .readHdr s = .next a →
      (a.err = true → exec .decompress s = .next { a with msgLen := 0 }) ∧
      (a.err = false → exec .build a = .next b → exec .decode b = .next c →
        (c.err = true → exec .decompress s = .next { c with msgLen := 0 }) ∧
        (c.err = false → exec .decompress s = .next c))) ∧
    (∀ a b : State, exec .readHdr s = .next a →
      (a.err = true → exec .inspect s = .next a) ∧
      (a.err = false → exec .build a = .next b → exec .inspect s = .next b))

/-- R184: whatever a successful COMPRESS leaves in CONT_BUF and CONT_LEN, DECOMPRESS under the same SYM8 gives the message back,
from any state of the other registers, tables and buffers; and COMPRESS of the empty message succeeds. -/
def Obligations.DecompressUndoesCompress : Prop :=
  (∀ s t : State, s.caps.wf = true → exec .compress s = .next t →
    t.valid = { ftV := true, treeV := true, ctV := true, encV := true, hdrV := true } →
    ∀ r : State, r.contBuf = t.contBuf → r.contLen = t.contLen → r.sym8 = t.sym8 → r.caps = t.caps →
      ∃ u, exec .decompress r = .next u ∧ u.err = r.err ∧
        u.valid = { ftV := true, treeV := true, ctV := false, encV := false, hdrV := true } ∧
        u.msgLen = s.msgLen ∧ u.message = s.message) ∧
  (∀ s : State, s.caps.wf = true → s.msgLen = 0 →
    ∃ t, exec .compress s = .next t ∧ t.err = s.err ∧
      t.valid = { ftV := true, treeV := true, ctV := true, encV := true, hdrV := true } ∧ t.contLen = 5 ∧
      t.container = [0, 0, 0, 0, 0])

/-- R45, R77: COMPRESS keeps nothing of earlier tables: two states that differ only in the tables and VALID end with the same error
state, buffers and lengths, and every register and window reads the same. -/
def Obligations.CompressIgnoresStaleTables : Prop :=
  ∀ (s : State) (old : Tables) (v : Valid), ∃ t t', exec .compress s = .next t ∧
    exec .compress { s with tables := old, valid := v } = .next t' ∧
    t.err = t'.err ∧ t.errCode = t'.errCode ∧ t.errInfo = t'.errInfo ∧ t.valid = t'.valid ∧
    t.contBuf = t'.contBuf ∧ t.contLen = t'.contLen ∧ t.msgBuf = t'.msgBuf ∧ t.msgLen = t'.msgLen ∧
    ∀ (n : Nat) (p : Place), t.placeRead n p = t'.placeRead n p

/-! ### Command status -/

/-- R203: a command whose required VALID bit is clear fails with NOT_READY(required-mask & ~VALID) and changes nothing else; a
command that requires nothing never reports it. -/
def Obligations.MissingValidBitsReportNotReady : Prop :=
  (∀ (s : State) (i : Instr) (mask : Word),
    (i, mask) ∈ [(Instr.build, 0x01#32), (.gen, 0x02#32), (.encode, 0x04#32), (.writeHdr, 0x08#32), (.decode, 0x12#32)] →
    mask &&& ~~~s.valid.word ≠ 0 → exec i s = .next (s.failure .notReady (mask &&& ~~~s.valid.word))) ∧
  (∀ (s t : State) (i : Instr), i ∈ [Instr.nop, .count, .readHdr, .compress, .decompress, .inspect] →
    exec i s = .next t → s.errCode ≠ .notReady → t.errCode ≠ .notReady)

/-- R207: VALID after every command, from VALID before it and its outcome. -/
def Obligations.ValidFollowsTheSummaryTable : Prop :=
  ∀ (i : Instr) (s t : State), s.err = false → exec i s = .next t →
    t.valid = validAfter i s.valid (if t.err then some t.errCode else none)

/-- R97, R205: a CMD write while IDLE is accepted: LAST_CMD, DONE, ERR, ERR_CODE and ERR_INFO as R205 says, REJ and everything
else unchanged; a legal code starts its command, an illegal one completes in the same step with ILLEGAL_CMD and ERR_INFO = OPC. -/
def Obligations.CmdWriteWhileIdleIsAccepted : Prop :=
  ∀ (s : State) (v : Word) (rest : List Event), s.engine = .idle →
    s.events = .access { addr := 0x008, we := true, size := 2, wdata := v } :: rest →
    (legalCode (v.extractLsb' 0 8) = true →
      step s = .next { s with
        events := rest, response := some { rdata := none, err := false }, lastCmd := v.extractLsb' 0 8
        done := false, err := false, errCode := .none, errInfo := 0, engine := .busy (v.extractLsb' 0 8) }) ∧
    (legalCode (v.extractLsb' 0 8) = false →
      step s = .next { s with
        events := rest, response := some { rdata := none, err := false }, lastCmd := v.extractLsb' 0 8
        done := true, err := true, errCode := .illegalCmd, errInfo := (v.extractLsb' 0 8).setWidth 32, engine := .idle })

/-- R204: a CMD write while BUSY sets REJ and changes nothing else; irq stays. -/
def Obligations.CmdWriteWhileBusyIsRejected : Prop :=
  ∀ (s : State) (c : Byte) (v : Word) (rest : List Event), s.engine = .busy c →
    s.events = .access { addr := 0x008, we := true, size := 2, wdata := v } :: rest →
    ∃ t, step s = .next t ∧
      t = { s with events := rest, response := some { rdata := none, err := false }, rej := true } ∧ t.irq = s.irq

/-- R25, R211: a STATUS write clears exactly the written ones among DONE, ERR and REJ, and keeps ERR_CODE, ERR_INFO and everything
else; STATUS then reads BUSY, DONE, ERR, REJ in bits 0–3 and 0 above. -/
def Obligations.StatusWriteClearsTheWrittenOnes : Prop :=
  ∀ (s : State) (v : Word) (rest : List Event),
    s.events = .access { addr := 0x00C, we := true, size := 2, wdata := v } :: rest →
    step s = .next { s with
      events := rest, response := some { rdata := none, err := false }
      done := s.done && !v.getLsbD 1, err := s.err && !v.getLsbD 2, rej := s.rej && !v.getLsbD 3 } ∧
    s.statusWord.toNat = s.busy.toNat + 2 * s.done.toNat + 4 * s.err.toNat + 8 * s.rej.toNat

/-- R46: irq = IE ∧ DONE: it equals IE when any command completes, falls at acceptance of a legal command, at a W1C of DONE and when
IE is cleared, rises when IE is set while DONE = 1, and REJ does not drive it. -/
def Obligations.IrqIsEnabledDone : Prop :=
  (∀ s : State, s.irq = (s.ie && s.done)) ∧
  (∀ (i : Instr) (s t : State), exec i s = .next t → t.irq = s.ie) ∧
  (∀ (s t : State) (v : Word) (rest : List Event), step s = .next t →
    (s.engine = .idle → legalCode (v.extractLsb' 0 8) = true →
      s.events = .access { addr := 0x008, we := true, size := 2, wdata := v } :: rest → t.irq = false) ∧
    (s.events = .access { addr := 0x00C, we := true, size := 2, wdata := v } :: rest → t.irq = (s.irq && !v.getLsbD 1)) ∧
    (s.events = .access { addr := 0x004, we := true, size := 2, wdata := v } :: rest → t.irq = (v.getLsbD 0 && s.done))) ∧
  (∀ (s : State) (b : Bool), ({ s with rej := b } : State).irq = s.irq)

/-! ### Bus accesses -/

/-- R71: while BUSY a legal write acts only at CTRL (bit 0), STATUS (W1C) and CMD (rejected); every other write completes with
err = 0 and no effect. -/
def Obligations.BusyWritesActOnlyOnCtrlStatusCmd : Prop :=
  ∀ (s : State) (c : Byte) (a : Access) (rest : List Event), s.engine = .busy c → s.events = .access a :: rest →
    a.we = true → a.legal = true →
    (a.addr = 0x004 → step s = .next { s with
      events := rest, response := some { rdata := none, err := false }, ie := a.wdata.getLsbD 0 }) ∧
    (a.addr = 0x00C → step s = .next { s with
      events := rest, response := some { rdata := none, err := false }
      done := s.done && !a.wdata.getLsbD 1, err := s.err && !a.wdata.getLsbD 2, rej := s.rej && !a.wdata.getLsbD 3 }) ∧
    (a.addr = 0x008 → step s = .next { s with
      events := rest, response := some { rdata := none, err := false }, rej := true }) ∧
    (a.addr ≠ 0x004 → a.addr ≠ 0x00C → a.addr ≠ 0x008 →
      step s = .next { s with events := rest, response := some { rdata := none, err := false } })

/-- R68, R70: a legal read changes nothing but the response: while IDLE it is the place's value; while BUSY, ID, CTRL, CMD, STATUS,
MSG_CAP and CONT_CAP keep theirs, and a read of any other register or window is a fresh free value (the statement holds for every
value of it; what is neither register nor window reads 0 then, log entry 9, on which this statement rests nothing). -/
def Obligations.ReadsChangeNothingButTheResponse : Prop :=
  ∀ (s : State) (a : Access) (n : Nat) (rest : List Event), s.events = .access a :: rest → a.we = false →
    a.legal = true → a.bytes = some n →
    ((s.engine = .idle ∨ a.addr.toNat ∈ [0x000, 0x004, 0x008, 0x00C, 0x040, 0x044]) →
      step s = .next { s with
        events := rest, response := some { rdata := some (s.placeRead n (placeOf a.addr)), err := false } }) ∧
    (s.engine ≠ .idle → a.addr.toNat ∉ [0x000, 0x004, 0x008, 0x00C, 0x040, 0x044] → placeOf a.addr ≠ .nothing →
      step s = .next { s with
        events := rest, response := some { rdata := some (Config.busyRead s.draws), err := false }
        draws := s.draws + 1 })

/-- R67: an access with size 3, a register-region access that is not 4 bytes or not 4-aligned, and a window access that is not
naturally aligned completes with err = 1 and no effect, an erroring read with rdata = 0 (R60). -/
def Obligations.MisalignedAccessesHaveNoEffect : Prop :=
  ∀ (s : State) (a : Access) (rest : List Event), s.events = .access a :: rest →
    (a.size = 3 ∨ (a.addr.toNat < 0x100000 ∧ (a.size ≠ 2 ∨ a.addr.toNat % 4 ≠ 0)) ∨
      (0x100000 ≤ a.addr.toNat ∧ a.addr.toNat < 0x300000 ∧ a.addr.toNat % 2 ^ a.size.toNat ≠ 0)) →
    step s = .next { s with
      events := rest, response := some { rdata := if a.we then none else some 0, err := true } }

/-- R63, R65, R68: while IDLE an aligned access of n bytes to the MSG or CONT window at offset o writes exactly the lanes of the
bytes o, …, o + n − 1 that lie below the capacity, and reads them little-endian, the bytes beyond the capacity and the lanes beyond n
as 0. -/
def Obligations.WindowAccessesActOnTheirBytes : Prop :=
  ∀ (s : State) (size : BitVec 2) (o n : Nat) (v : Word) (rest : List Event), s.engine = .idle →
    (size, n) ∈ [(0#2, 1), (1#2, 2), (2#2, 4)] → o % n = 0 → o < 0x100000 →
    (s.events = .access { addr := BitVec.ofNat 22 (0x100000 + o), we := true, size := size, wdata := v } :: rest →
      ∃ t, step s = .next t ∧
        t = { s with events := rest, response := some { rdata := none, err := false }, msgBuf := t.msgBuf } ∧
        ∀ i, t.msgRead i =
          if o ≤ i ∧ i < o + n ∧ i < s.caps.msgCap then v.extractLsb' (8 * (i - o)) 8 else s.msgRead i) ∧
    (s.events = .access { addr := BitVec.ofNat 22 (0x200000 + o), we := true, size := size, wdata := v } :: rest →
      ∃ t, step s = .next t ∧
        t = { s with events := rest, response := some { rdata := none, err := false }, contBuf := t.contBuf } ∧
        ∀ i, t.contRead i =
          if o ≤ i ∧ i < o + n ∧ i < s.caps.contCap then v.extractLsb' (8 * (i - o)) 8 else s.contRead i) ∧
    (s.events = .access { addr := BitVec.ofNat 22 (0x100000 + o), we := false, size := size, wdata := v } :: rest →
      ∃ w, step s = .next { s with events := rest, response := some { rdata := some w, err := false } } ∧
        ∀ j, j < 4 → w.extractLsb' (8 * j) 8 =
          if j < n ∧ o + j < s.caps.msgCap then s.msgBuf.byte (o + j) else 0) ∧
    (s.events = .access { addr := BitVec.ofNat 22 (0x200000 + o), we := false, size := size, wdata := v } :: rest →
      ∃ w, step s = .next { s with events := rest, response := some { rdata := some w, err := false } } ∧
        ∀ j, j < 4 → w.extractLsb' (8 * j) 8 =
          if j < n ∧ o + j < s.caps.contCap then s.contBuf.byte (o + j) else 0)

/-- R23, R30, R31, R37, R64: while IDLE a CTRL write sets IE and SYM8 from bits 0 and 1, MSG_LEN and CONT_LEN take any 32-bit value,
CODE_SEL takes bits 7:0, and a write to any other 4-aligned register offset but CMD and STATUS is ignored. -/
def Obligations.IdleRegisterWritesStoreTheirFields : Prop :=
  ∀ (s : State) (off : BitVec 22) (v : Word) (rest : List Event), s.engine = .idle →
    s.events = .access { addr := off, we := true, size := 2, wdata := v } :: rest →
    (off = 0x004 → step s = .next { s with
      events := rest, response := some { rdata := none, err := false }, ie := v.getLsbD 0, sym8 := v.getLsbD 1 }) ∧
    (off = 0x01C → step s = .next { s with
      events := rest, response := some { rdata := none, err := false }, msgLen := v }) ∧
    (off = 0x020 → step s = .next { s with
      events := rest, response := some { rdata := none, err := false }, contLen := v }) ∧
    (off = 0x048 → step s = .next { s with
      events := rest, response := some { rdata := none, err := false }, codeSel := v.extractLsb' 0 8 }) ∧
    (off.toNat < 0x100000 → off.toNat % 4 = 0 → off.toNat ∉ [0x004, 0x008, 0x00C, 0x01C, 0x020, 0x048] →
      step s = .next { s with events := rest, response := some { rdata := none, err := false } })

/-- R23–R28, R30–R37, R64, R100, R110: what a 4-byte read at each offset of R100 gives while its place is readable: the plain
registers with their fields, the gated ones by their VALID bits; the CODE registers and the windows (R38, R39, R103, R104) read 0
where their VALID bit is clear; and every other 4-aligned register offset and the reserved range (R62) read 0. -/
def Obligations.GatedReadsFollowTheirValidBits : Prop :=
  ∀ s : State,
    s.placeRead 4 (placeOf 0x000) = 0x48554646 ∧
    (s.placeRead 4 (placeOf 0x004)).toNat = s.ie.toNat + 2 * s.sym8.toNat ∧
    (s.placeRead 4 (placeOf 0x008)).toNat = s.lastCmd.toNat ∧
    (s.placeRead 4 (placeOf 0x00C)).toNat = s.busy.toNat + 2 * s.done.toNat + 4 * s.err.toNat + 8 * s.rej.toNat ∧
    s.placeRead 4 (placeOf 0x010) =
      (match s.errCode with
        | .none => 0x00 | .illegalCmd => 0x01 | .notReady => 0x02 | .badLength => 0x03 | .symbolWidth => 0x04
        | .freqOverflow => 0x05 | .unknownSymbol => 0x06 | .corruptHeader => 0x07 | .malformedStream => 0x08
        | .capacity => 0x09) ∧
    s.placeRead 4 (placeOf 0x014) = s.errInfo ∧
    (s.placeRead 4 (placeOf 0x018)).toNat = s.valid.ftV.toNat + 2 * s.valid.treeV.toNat + 4 * s.valid.ctV.toNat
      + 8 * s.valid.encV.toNat + 16 * s.valid.hdrV.toNat ∧
    s.placeRead 4 (placeOf 0x01C) = s.msgLen ∧
    s.placeRead 4 (placeOf 0x020) = s.contLen ∧
    s.placeRead 4 (placeOf 0x024) = (if s.valid.ftV then BitVec.ofNat 32 s.tables.ftN.val else 0) ∧
    s.placeRead 4 (placeOf 0x028) = (if s.valid.encV || s.valid.hdrV then s.tables.pad.setWidth 32 else 0) ∧
    s.placeRead 4 (placeOf 0x02C) = (if s.valid.encV || s.valid.hdrV then s.tables.bitLen else 0) ∧
    s.placeRead 4 (placeOf 0x030) = (if s.valid.hdrV then s.tables.payOff else 0) ∧
    s.placeRead 4 (placeOf 0x034) = (if s.valid.hdrV then s.tables.payLen else 0) ∧
    s.placeRead 4 (placeOf 0x038) = (if s.valid.treeV then s.tables.root.setWidth 32 else 0x1FF) ∧
    s.placeRead 4 (placeOf 0x03C) = (if s.valid.treeV then BitVec.ofNat 32 s.tables.nodeCnt.val else 0) ∧
    s.placeRead 4 (placeOf 0x040) = BitVec.ofNat 32 s.caps.msgCap ∧
    s.placeRead 4 (placeOf 0x044) = BitVec.ofNat 32 s.caps.contCap ∧
    (s.placeRead 4 (placeOf 0x048)).toNat = s.codeSel.toNat ∧
    (s.valid.ctV = false → s.placeRead 4 (placeOf 0x04C) = 0 ∧
      ∀ k, k < 8 → s.placeRead 4 (placeOf (BitVec.ofNat 22 (0x050 + 4 * k))) = 0) ∧
    (s.valid.ftV = false → ∀ k, k < 256 → s.placeRead 4 (placeOf (BitVec.ofNat 22 (0x400 + 4 * k))) = 0) ∧
    (s.valid.treeV = false → ∀ i, i < 511 →
      s.placeRead 4 (placeOf (BitVec.ofNat 22 (0x1000 + 8 * i))) = 0 ∧
      s.placeRead 4 (placeOf (BitVec.ofNat 22 (0x1004 + 8 * i))) = 0) ∧
    (∀ a : BitVec 22, a.toNat % 4 = 0 →
      ((0x070 ≤ a.toNat ∧ a.toNat < 0x400) ∨ (0x800 ≤ a.toNat ∧ a.toNat < 0x1000) ∨
        (0x1FF8 ≤ a.toNat ∧ a.toNat < 0x100000) ∨ 0x300000 ≤ a.toNat) →
      s.placeRead 4 (placeOf a) = 0)

/-- R103, R104: the FT window and node window words, field by field, at their offsets. -/
def Obligations.InspectionWindowsShowTheTables : Prop :=
  ∀ s : State,
    (∀ k, k < 256 → s.valid.ftV = true →
      (∀ (m : Byte) (n : Nat), s.tables.ft[k]? = some (m, n) →
        (s.placeRead 4 (placeOf (BitVec.ofNat 22 (0x400 + 4 * k)))).toNat = 2 ^ 31 + n % 65536 * 256 + m.toNat) ∧
      (s.tables.ftN.val ≤ k → s.placeRead 4 (placeOf (BitVec.ofNat 22 (0x400 + 4 * k))) = 0)) ∧
    (∀ (i : Nat) (hi : i < 511), s.valid.treeV = true →
      (i < s.tables.nodeCnt.val →
        s.placeRead 4 (placeOf (BitVec.ofNat 22 (0x1000 + 8 * i))) = s.tables.nodes[i].freq ∧
        (∀ (m : Byte) (f : BitVec 32), s.tables.nodes[i] = .leaf m f →
          (s.placeRead 4 (placeOf (BitVec.ofNat 22 (0x1004 + 8 * i)))).toNat
            = 2 ^ 31 + 2 ^ 30 + 0x1FF * 2 ^ 17 + 0x1FF * 2 ^ 8 + m.toNat) ∧
        (∀ (f : BitVec 32) (l r : BitVec 9), s.tables.nodes[i] = .internal f l r →
          (s.placeRead 4 (placeOf (BitVec.ofNat 22 (0x1004 + 8 * i)))).toNat
            = 2 ^ 31 + r.toNat * 2 ^ 17 + l.toNat * 2 ^ 8)) ∧
      (s.tables.nodeCnt.val ≤ i →
        s.placeRead 4 (placeOf (BitVec.ofNat 22 (0x1000 + 8 * i))) = 0 ∧
        s.placeRead 4 (placeOf (BitVec.ofNat 22 (0x1004 + 8 * i))) = 0))

/-- R38, R39: CODE_INFO and CODE_BITS0–7 of the selected symbol's code, the first bit at CODE_BITS0 bit 31. -/
def Obligations.CodeRegistersShowTheSelectedCode : Prop :=
  ∀ s : State,
    (∀ c : Bits, s.valid.ctV = true → ctAt s.tables.ct s.codeSel = some c → c.length ≤ 255 →
      (s.placeRead 4 (placeOf 0x04C)).toNat = 2 ^ 31 + c.length ∧
      ∀ k b, k < 8 → b < 32 →
        (s.placeRead 4 (placeOf (BitVec.ofNat 22 (0x050 + 4 * k)))).getLsbD b = c.getD (32 * k + (31 - b)) false) ∧
    ((s.valid.ctV = false ∨ ctAt s.tables.ct s.codeSel = none) →
      s.placeRead 4 (placeOf 0x04C) = 0 ∧
      ∀ k, k < 8 → s.placeRead 4 (placeOf (BitVec.ofNat 22 (0x050 + 4 * k))) = 0)

/-! ### Reset and invariants -/

/-- R47, R48: what reset leaves: every value R48 specifies, at State.reset and after a reset event in any state, and no read shows
the storage it leaves unspecified; the capacities stay. That the inputs behind a reset stay pending is the model's choice (log
entry 11). -/
def Obligations.ResetLeavesTheListedValues : Prop :=
  (State.reset.resetValues ∧ State.reset.tablesHidden) ∧
  ∀ (s : State) (rest : List Event), s.events = .reset :: rest →
    ∃ t, step s = .next t ∧ t.resetValues ∧ t.tablesHidden ∧ t.caps = s.caps ∧ t.events = rest

/-- R29: every step keeps the four implications between VALID bits; at reset every bit is 0, which satisfies them. -/
def Obligations.StepKeepsTheValidImplications : Prop :=
  State.reset.valid.word = 0 ∧ State.reset.valid.chain ∧ ∀ s t : State, s.valid.chain → step s = .next t → t.valid.chain

/-- Every step keeps both buffers' memory canonical and within its capacity (R44, R63, R69). -/
def Obligations.StepKeepsMemoryCanonical : Prop :=
  ∀ s t : State, s.memoryOk → step s = .next t → t.memoryOk

/-- Every step keeps the engine's invariant: a running command's code is legal and in LAST_CMD, and DONE, ERR, ERR_CODE and ERR_INFO
are clear while it runs (R22, R25, R205, R206). -/
def Obligations.StepKeepsTheEngineConsistent : Prop :=
  ∀ s t : State, s.engineOk → step s = .next t → t.engineOk

/-- Every step keeps every valid table consistent: FT_V, TREE_V, CT_V, ENC_V and HDR_V each say what R28, R40, R41, R43, R163 and
R171 say. -/
def Obligations.StepKeepsTheTablesConsistent : Prop :=
  ∀ s t : State, s.tablesOk → step s = .next t → t.tablesOk

/-- The invariants hold at State.reset. -/
def Obligations.ResetMeetsTheInvariants : Prop :=
  State.reset.engineOk ∧ State.reset.memoryOk ∧ State.reset.tablesOk

/-- R200, R245: from a state with the engine's invariant no step faults, and a step is refused only at a host action R244 forbids
(log entry 13). -/
def Obligations.ConsistentStatesNeverStop : Prop :=
  ∀ s : State, s.engineOk →
    (∀ f, step s ≠ .fault f) ∧
    (∀ r, step s = .refused r → s.events.head? = some .forbidden ∧ r = .forbiddenHost)

/-- R232, R245: from a state with the engine's invariant and no forbidden action pending, after at most twice as many steps as inputs
are pending, and one more, every input has been performed and the engine is IDLE (log entry 1: the inputs' order stands for the
latency). -/
def Obligations.EveryCommandIsEventuallyDone : Prop :=
  ∀ s : State, s.engineOk → Event.forbidden ∉ s.events →
    ∃ t, Sys2Proof.core.run (2 * s.events.length + 1) s = .next t ∧ t.engine = .idle ∧ t.events = []

/-! ### Frames -/

/-- The control registers' frame of every command (R206): CTRL, LAST_CMD, REJ, CODE_SEL, the capacities, the response and the
pending inputs are unchanged by any command. -/
def Obligations.CommandsLeaveControlStateAlone : Prop :=
  ∀ (i : Instr) (s t : State), exec i s = .next t →
    t.ie = s.ie ∧ t.sym8 = s.sym8 ∧ t.lastCmd = s.lastCmd ∧ t.rej = s.rej ∧ t.codeSel = s.codeSel ∧ t.caps = s.caps ∧
    t.response = s.response ∧ t.events = s.events

/-- The buffers' and length registers' frame of every command: which commands write MSG_BUF, MSG_LEN, CONT_BUF and CONT_LEN at all,
and at which offsets (R131, R141, R151, R163, R171, R172, R183, R190–R193). -/
def Obligations.BuffersChangeOnlyWhereCommandsStore : Prop :=
  ∀ (i : Instr) (s t : State), exec i s = .next t →
    (i ∉ [Instr.decode, .decompress] → t.msgBuf = s.msgBuf ∧ t.msgLen = s.msgLen) ∧
    (i ∉ [Instr.encode, .writeHdr, .compress] → t.contBuf = s.contBuf) ∧
    (i ∉ [Instr.writeHdr, .compress] → t.contLen = s.contLen) ∧
    (i = .encode → ∀ a,
      (a < headerLen s.tables.ftN.val ∨
        headerLen s.tables.ftN.val + (pack (encodeBits s.tables.ct s.message)).1.length ≤ a) →
      t.contRead a = s.contRead a) ∧
    (i = .writeHdr → ∀ a, headerLen s.tables.ftN.val ≤ a → t.contRead a = s.contRead a) ∧
    (i = .compress → s.caps.wf = true → ∀ a, t.contLen.toNat ≤ a → t.contRead a = s.contRead a) ∧
    (i ∈ [Instr.decode, .decompress] → s.caps.wf = true → s.err = false → t.err = false →
      ∀ a, t.msgLen.toNat ≤ a → t.msgRead a = s.msgRead a) ∧
    (i = .decompress → s.err = false → t.err = true → t.msgLen = 0 ∧
      (t.errCode = .badLength ∨ t.errCode = .corruptHeader → t.msgBuf = s.msgBuf))

/-- The tables' frame of the stage commands where they succeed: which pieces of the gated storage each leaves unchanged (R131, R141,
R151, R163, R171, R172, R183, R190). -/
def Obligations.StagesLeaveOtherTablesAlone : Prop :=
  ∀ (i : Instr) (s t : State), exec i s = .next t →
    (i ∈ [Instr.nop, .decode] → t.tables = s.tables) ∧
    (i = .count → t.valid.ftV = true → t.tables =
      { s.tables with ftN := t.tables.ftN, ftSym := t.tables.ftSym, ftCnt := t.tables.ftCnt }) ∧
    (i = .build → t.tables =
      { s.tables with nodes := t.tables.nodes, nodeCnt := t.tables.nodeCnt, root := t.tables.root }) ∧
    (i = .gen → t.tables = { s.tables with ct := t.tables.ct }) ∧
    (i = .encode → t.tables = { s.tables with pad := t.tables.pad, bitLen := t.tables.bitLen }) ∧
    (i = .writeHdr → t.tables = { s.tables with payOff := t.tables.payOff, payLen := t.tables.payLen }) ∧
    (i = .readHdr → t.valid.ftV = true → t.tables =
      { s.tables with
        ftN := t.tables.ftN, ftSym := t.tables.ftSym, ftCnt := t.tables.ftCnt, pad := t.tables.pad
        bitLen := t.tables.bitLen, payOff := t.tables.payOff, payLen := t.tables.payLen })
end

