-- ==== Sys2Proof/Laws/State.lean ====
section
/-! SUPPORT. One lemma per field of State and per named update, true by unfolding, so that no proof unfolds a record update. -/

namespace Sys2Proof.Machine

/-! ### State.setEngine -/

@[simp] theorem State.setEngine_engine (s : State) (e : Engine) : (s.setEngine e).engine = e := rfl
@[simp] theorem State.setEngine_ie (s : State) (e : Engine) : (s.setEngine e).ie = s.ie := rfl
@[simp] theorem State.setEngine_sym8 (s : State) (e : Engine) : (s.setEngine e).sym8 = s.sym8 := rfl
@[simp] theorem State.setEngine_lastCmd (s : State) (e : Engine) : (s.setEngine e).lastCmd = s.lastCmd := rfl
@[simp] theorem State.setEngine_done (s : State) (e : Engine) : (s.setEngine e).done = s.done := rfl
@[simp] theorem State.setEngine_err (s : State) (e : Engine) : (s.setEngine e).err = s.err := rfl
@[simp] theorem State.setEngine_rej (s : State) (e : Engine) : (s.setEngine e).rej = s.rej := rfl
@[simp] theorem State.setEngine_errCode (s : State) (e : Engine) : (s.setEngine e).errCode = s.errCode := rfl
@[simp] theorem State.setEngine_errInfo (s : State) (e : Engine) : (s.setEngine e).errInfo = s.errInfo := rfl
@[simp] theorem State.setEngine_valid (s : State) (e : Engine) : (s.setEngine e).valid = s.valid := rfl
@[simp] theorem State.setEngine_msgLen (s : State) (e : Engine) : (s.setEngine e).msgLen = s.msgLen := rfl
@[simp] theorem State.setEngine_contLen (s : State) (e : Engine) : (s.setEngine e).contLen = s.contLen := rfl
@[simp] theorem State.setEngine_codeSel (s : State) (e : Engine) : (s.setEngine e).codeSel = s.codeSel := rfl
@[simp] theorem State.setEngine_tables (s : State) (e : Engine) : (s.setEngine e).tables = s.tables := rfl
@[simp] theorem State.setEngine_msgBuf (s : State) (e : Engine) : (s.setEngine e).msgBuf = s.msgBuf := rfl
@[simp] theorem State.setEngine_contBuf (s : State) (e : Engine) : (s.setEngine e).contBuf = s.contBuf := rfl
@[simp] theorem State.setEngine_caps (s : State) (e : Engine) : (s.setEngine e).caps = s.caps := rfl
@[simp] theorem State.setEngine_response (s : State) (e : Engine) : (s.setEngine e).response = s.response := rfl
@[simp] theorem State.setEngine_events (s : State) (e : Engine) : (s.setEngine e).events = s.events := rfl
@[simp] theorem State.setEngine_draws (s : State) (e : Engine) : (s.setEngine e).draws = s.draws := rfl

/-! ### State.setValid -/

@[simp] theorem State.setValid_engine (s : State) (v : Valid) : (s.setValid v).engine = s.engine := rfl
@[simp] theorem State.setValid_ie (s : State) (v : Valid) : (s.setValid v).ie = s.ie := rfl
@[simp] theorem State.setValid_sym8 (s : State) (v : Valid) : (s.setValid v).sym8 = s.sym8 := rfl
@[simp] theorem State.setValid_lastCmd (s : State) (v : Valid) : (s.setValid v).lastCmd = s.lastCmd := rfl
@[simp] theorem State.setValid_done (s : State) (v : Valid) : (s.setValid v).done = s.done := rfl
@[simp] theorem State.setValid_err (s : State) (v : Valid) : (s.setValid v).err = s.err := rfl
@[simp] theorem State.setValid_rej (s : State) (v : Valid) : (s.setValid v).rej = s.rej := rfl
@[simp] theorem State.setValid_errCode (s : State) (v : Valid) : (s.setValid v).errCode = s.errCode := rfl
@[simp] theorem State.setValid_errInfo (s : State) (v : Valid) : (s.setValid v).errInfo = s.errInfo := rfl
@[simp] theorem State.setValid_valid (s : State) (v : Valid) : (s.setValid v).valid = v := rfl
@[simp] theorem State.setValid_msgLen (s : State) (v : Valid) : (s.setValid v).msgLen = s.msgLen := rfl
@[simp] theorem State.setValid_contLen (s : State) (v : Valid) : (s.setValid v).contLen = s.contLen := rfl
@[simp] theorem State.setValid_codeSel (s : State) (v : Valid) : (s.setValid v).codeSel = s.codeSel := rfl
@[simp] theorem State.setValid_tables (s : State) (v : Valid) : (s.setValid v).tables = s.tables := rfl
@[simp] theorem State.setValid_msgBuf (s : State) (v : Valid) : (s.setValid v).msgBuf = s.msgBuf := rfl
@[simp] theorem State.setValid_contBuf (s : State) (v : Valid) : (s.setValid v).contBuf = s.contBuf := rfl
@[simp] theorem State.setValid_caps (s : State) (v : Valid) : (s.setValid v).caps = s.caps := rfl
@[simp] theorem State.setValid_response (s : State) (v : Valid) : (s.setValid v).response = s.response := rfl
@[simp] theorem State.setValid_events (s : State) (v : Valid) : (s.setValid v).events = s.events := rfl
@[simp] theorem State.setValid_draws (s : State) (v : Valid) : (s.setValid v).draws = s.draws := rfl

/-! ### State.setTables -/

@[simp] theorem State.setTables_engine (s : State) (t : Tables) : (s.setTables t).engine = s.engine := rfl
@[simp] theorem State.setTables_ie (s : State) (t : Tables) : (s.setTables t).ie = s.ie := rfl
@[simp] theorem State.setTables_sym8 (s : State) (t : Tables) : (s.setTables t).sym8 = s.sym8 := rfl
@[simp] theorem State.setTables_lastCmd (s : State) (t : Tables) : (s.setTables t).lastCmd = s.lastCmd := rfl
@[simp] theorem State.setTables_done (s : State) (t : Tables) : (s.setTables t).done = s.done := rfl
@[simp] theorem State.setTables_err (s : State) (t : Tables) : (s.setTables t).err = s.err := rfl
@[simp] theorem State.setTables_rej (s : State) (t : Tables) : (s.setTables t).rej = s.rej := rfl
@[simp] theorem State.setTables_errCode (s : State) (t : Tables) : (s.setTables t).errCode = s.errCode := rfl
@[simp] theorem State.setTables_errInfo (s : State) (t : Tables) : (s.setTables t).errInfo = s.errInfo := rfl
@[simp] theorem State.setTables_valid (s : State) (t : Tables) : (s.setTables t).valid = s.valid := rfl
@[simp] theorem State.setTables_msgLen (s : State) (t : Tables) : (s.setTables t).msgLen = s.msgLen := rfl
@[simp] theorem State.setTables_contLen (s : State) (t : Tables) : (s.setTables t).contLen = s.contLen := rfl
@[simp] theorem State.setTables_codeSel (s : State) (t : Tables) : (s.setTables t).codeSel = s.codeSel := rfl
@[simp] theorem State.setTables_tables (s : State) (t : Tables) : (s.setTables t).tables = t := rfl
@[simp] theorem State.setTables_msgBuf (s : State) (t : Tables) : (s.setTables t).msgBuf = s.msgBuf := rfl
@[simp] theorem State.setTables_contBuf (s : State) (t : Tables) : (s.setTables t).contBuf = s.contBuf := rfl
@[simp] theorem State.setTables_caps (s : State) (t : Tables) : (s.setTables t).caps = s.caps := rfl
@[simp] theorem State.setTables_response (s : State) (t : Tables) : (s.setTables t).response = s.response := rfl
@[simp] theorem State.setTables_events (s : State) (t : Tables) : (s.setTables t).events = s.events := rfl
@[simp] theorem State.setTables_draws (s : State) (t : Tables) : (s.setTables t).draws = s.draws := rfl

/-! ### State.setMsgLen -/

@[simp] theorem State.setMsgLen_engine (s : State) (v : Word) : (s.setMsgLen v).engine = s.engine := rfl
@[simp] theorem State.setMsgLen_ie (s : State) (v : Word) : (s.setMsgLen v).ie = s.ie := rfl
@[simp] theorem State.setMsgLen_sym8 (s : State) (v : Word) : (s.setMsgLen v).sym8 = s.sym8 := rfl
@[simp] theorem State.setMsgLen_lastCmd (s : State) (v : Word) : (s.setMsgLen v).lastCmd = s.lastCmd := rfl
@[simp] theorem State.setMsgLen_done (s : State) (v : Word) : (s.setMsgLen v).done = s.done := rfl
@[simp] theorem State.setMsgLen_err (s : State) (v : Word) : (s.setMsgLen v).err = s.err := rfl
@[simp] theorem State.setMsgLen_rej (s : State) (v : Word) : (s.setMsgLen v).rej = s.rej := rfl
@[simp] theorem State.setMsgLen_errCode (s : State) (v : Word) : (s.setMsgLen v).errCode = s.errCode := rfl
@[simp] theorem State.setMsgLen_errInfo (s : State) (v : Word) : (s.setMsgLen v).errInfo = s.errInfo := rfl
@[simp] theorem State.setMsgLen_valid (s : State) (v : Word) : (s.setMsgLen v).valid = s.valid := rfl
@[simp] theorem State.setMsgLen_msgLen (s : State) (v : Word) : (s.setMsgLen v).msgLen = v := rfl
@[simp] theorem State.setMsgLen_contLen (s : State) (v : Word) : (s.setMsgLen v).contLen = s.contLen := rfl
@[simp] theorem State.setMsgLen_codeSel (s : State) (v : Word) : (s.setMsgLen v).codeSel = s.codeSel := rfl
@[simp] theorem State.setMsgLen_tables (s : State) (v : Word) : (s.setMsgLen v).tables = s.tables := rfl
@[simp] theorem State.setMsgLen_msgBuf (s : State) (v : Word) : (s.setMsgLen v).msgBuf = s.msgBuf := rfl
@[simp] theorem State.setMsgLen_contBuf (s : State) (v : Word) : (s.setMsgLen v).contBuf = s.contBuf := rfl
@[simp] theorem State.setMsgLen_caps (s : State) (v : Word) : (s.setMsgLen v).caps = s.caps := rfl
@[simp] theorem State.setMsgLen_response (s : State) (v : Word) : (s.setMsgLen v).response = s.response := rfl
@[simp] theorem State.setMsgLen_events (s : State) (v : Word) : (s.setMsgLen v).events = s.events := rfl
@[simp] theorem State.setMsgLen_draws (s : State) (v : Word) : (s.setMsgLen v).draws = s.draws := rfl

/-! ### State.setContLen -/

@[simp] theorem State.setContLen_engine (s : State) (v : Word) : (s.setContLen v).engine = s.engine := rfl
@[simp] theorem State.setContLen_ie (s : State) (v : Word) : (s.setContLen v).ie = s.ie := rfl
@[simp] theorem State.setContLen_sym8 (s : State) (v : Word) : (s.setContLen v).sym8 = s.sym8 := rfl
@[simp] theorem State.setContLen_lastCmd (s : State) (v : Word) : (s.setContLen v).lastCmd = s.lastCmd := rfl
@[simp] theorem State.setContLen_done (s : State) (v : Word) : (s.setContLen v).done = s.done := rfl
@[simp] theorem State.setContLen_err (s : State) (v : Word) : (s.setContLen v).err = s.err := rfl
@[simp] theorem State.setContLen_rej (s : State) (v : Word) : (s.setContLen v).rej = s.rej := rfl
@[simp] theorem State.setContLen_errCode (s : State) (v : Word) : (s.setContLen v).errCode = s.errCode := rfl
@[simp] theorem State.setContLen_errInfo (s : State) (v : Word) : (s.setContLen v).errInfo = s.errInfo := rfl
@[simp] theorem State.setContLen_valid (s : State) (v : Word) : (s.setContLen v).valid = s.valid := rfl
@[simp] theorem State.setContLen_msgLen (s : State) (v : Word) : (s.setContLen v).msgLen = s.msgLen := rfl
@[simp] theorem State.setContLen_contLen (s : State) (v : Word) : (s.setContLen v).contLen = v := rfl
@[simp] theorem State.setContLen_codeSel (s : State) (v : Word) : (s.setContLen v).codeSel = s.codeSel := rfl
@[simp] theorem State.setContLen_tables (s : State) (v : Word) : (s.setContLen v).tables = s.tables := rfl
@[simp] theorem State.setContLen_msgBuf (s : State) (v : Word) : (s.setContLen v).msgBuf = s.msgBuf := rfl
@[simp] theorem State.setContLen_contBuf (s : State) (v : Word) : (s.setContLen v).contBuf = s.contBuf := rfl
@[simp] theorem State.setContLen_caps (s : State) (v : Word) : (s.setContLen v).caps = s.caps := rfl
@[simp] theorem State.setContLen_response (s : State) (v : Word) : (s.setContLen v).response = s.response := rfl
@[simp] theorem State.setContLen_events (s : State) (v : Word) : (s.setContLen v).events = s.events := rfl
@[simp] theorem State.setContLen_draws (s : State) (v : Word) : (s.setContLen v).draws = s.draws := rfl

/-! ### State.setCodeSel -/

@[simp] theorem State.setCodeSel_engine (s : State) (v : Byte) : (s.setCodeSel v).engine = s.engine := rfl
@[simp] theorem State.setCodeSel_ie (s : State) (v : Byte) : (s.setCodeSel v).ie = s.ie := rfl
@[simp] theorem State.setCodeSel_sym8 (s : State) (v : Byte) : (s.setCodeSel v).sym8 = s.sym8 := rfl
@[simp] theorem State.setCodeSel_lastCmd (s : State) (v : Byte) : (s.setCodeSel v).lastCmd = s.lastCmd := rfl
@[simp] theorem State.setCodeSel_done (s : State) (v : Byte) : (s.setCodeSel v).done = s.done := rfl
@[simp] theorem State.setCodeSel_err (s : State) (v : Byte) : (s.setCodeSel v).err = s.err := rfl
@[simp] theorem State.setCodeSel_rej (s : State) (v : Byte) : (s.setCodeSel v).rej = s.rej := rfl
@[simp] theorem State.setCodeSel_errCode (s : State) (v : Byte) : (s.setCodeSel v).errCode = s.errCode := rfl
@[simp] theorem State.setCodeSel_errInfo (s : State) (v : Byte) : (s.setCodeSel v).errInfo = s.errInfo := rfl
@[simp] theorem State.setCodeSel_valid (s : State) (v : Byte) : (s.setCodeSel v).valid = s.valid := rfl
@[simp] theorem State.setCodeSel_msgLen (s : State) (v : Byte) : (s.setCodeSel v).msgLen = s.msgLen := rfl
@[simp] theorem State.setCodeSel_contLen (s : State) (v : Byte) : (s.setCodeSel v).contLen = s.contLen := rfl
@[simp] theorem State.setCodeSel_codeSel (s : State) (v : Byte) : (s.setCodeSel v).codeSel = v := rfl
@[simp] theorem State.setCodeSel_tables (s : State) (v : Byte) : (s.setCodeSel v).tables = s.tables := rfl
@[simp] theorem State.setCodeSel_msgBuf (s : State) (v : Byte) : (s.setCodeSel v).msgBuf = s.msgBuf := rfl
@[simp] theorem State.setCodeSel_contBuf (s : State) (v : Byte) : (s.setCodeSel v).contBuf = s.contBuf := rfl
@[simp] theorem State.setCodeSel_caps (s : State) (v : Byte) : (s.setCodeSel v).caps = s.caps := rfl
@[simp] theorem State.setCodeSel_response (s : State) (v : Byte) : (s.setCodeSel v).response = s.response := rfl
@[simp] theorem State.setCodeSel_events (s : State) (v : Byte) : (s.setCodeSel v).events = s.events := rfl
@[simp] theorem State.setCodeSel_draws (s : State) (v : Byte) : (s.setCodeSel v).draws = s.draws := rfl

/-! ### State.setMsgBuf -/

@[simp] theorem State.setMsgBuf_engine (s : State) (b : Buffer) : (s.setMsgBuf b).engine = s.engine := rfl
@[simp] theorem State.setMsgBuf_ie (s : State) (b : Buffer) : (s.setMsgBuf b).ie = s.ie := rfl
@[simp] theorem State.setMsgBuf_sym8 (s : State) (b : Buffer) : (s.setMsgBuf b).sym8 = s.sym8 := rfl
@[simp] theorem State.setMsgBuf_lastCmd (s : State) (b : Buffer) : (s.setMsgBuf b).lastCmd = s.lastCmd := rfl
@[simp] theorem State.setMsgBuf_done (s : State) (b : Buffer) : (s.setMsgBuf b).done = s.done := rfl
@[simp] theorem State.setMsgBuf_err (s : State) (b : Buffer) : (s.setMsgBuf b).err = s.err := rfl
@[simp] theorem State.setMsgBuf_rej (s : State) (b : Buffer) : (s.setMsgBuf b).rej = s.rej := rfl
@[simp] theorem State.setMsgBuf_errCode (s : State) (b : Buffer) : (s.setMsgBuf b).errCode = s.errCode := rfl
@[simp] theorem State.setMsgBuf_errInfo (s : State) (b : Buffer) : (s.setMsgBuf b).errInfo = s.errInfo := rfl
@[simp] theorem State.setMsgBuf_valid (s : State) (b : Buffer) : (s.setMsgBuf b).valid = s.valid := rfl
@[simp] theorem State.setMsgBuf_msgLen (s : State) (b : Buffer) : (s.setMsgBuf b).msgLen = s.msgLen := rfl
@[simp] theorem State.setMsgBuf_contLen (s : State) (b : Buffer) : (s.setMsgBuf b).contLen = s.contLen := rfl
@[simp] theorem State.setMsgBuf_codeSel (s : State) (b : Buffer) : (s.setMsgBuf b).codeSel = s.codeSel := rfl
@[simp] theorem State.setMsgBuf_tables (s : State) (b : Buffer) : (s.setMsgBuf b).tables = s.tables := rfl
@[simp] theorem State.setMsgBuf_msgBuf (s : State) (b : Buffer) : (s.setMsgBuf b).msgBuf = b := rfl
@[simp] theorem State.setMsgBuf_contBuf (s : State) (b : Buffer) : (s.setMsgBuf b).contBuf = s.contBuf := rfl
@[simp] theorem State.setMsgBuf_caps (s : State) (b : Buffer) : (s.setMsgBuf b).caps = s.caps := rfl
@[simp] theorem State.setMsgBuf_response (s : State) (b : Buffer) : (s.setMsgBuf b).response = s.response := rfl
@[simp] theorem State.setMsgBuf_events (s : State) (b : Buffer) : (s.setMsgBuf b).events = s.events := rfl
@[simp] theorem State.setMsgBuf_draws (s : State) (b : Buffer) : (s.setMsgBuf b).draws = s.draws := rfl

/-! ### State.setContBuf -/

@[simp] theorem State.setContBuf_engine (s : State) (b : Buffer) : (s.setContBuf b).engine = s.engine := rfl
@[simp] theorem State.setContBuf_ie (s : State) (b : Buffer) : (s.setContBuf b).ie = s.ie := rfl
@[simp] theorem State.setContBuf_sym8 (s : State) (b : Buffer) : (s.setContBuf b).sym8 = s.sym8 := rfl
@[simp] theorem State.setContBuf_lastCmd (s : State) (b : Buffer) : (s.setContBuf b).lastCmd = s.lastCmd := rfl
@[simp] theorem State.setContBuf_done (s : State) (b : Buffer) : (s.setContBuf b).done = s.done := rfl
@[simp] theorem State.setContBuf_err (s : State) (b : Buffer) : (s.setContBuf b).err = s.err := rfl
@[simp] theorem State.setContBuf_rej (s : State) (b : Buffer) : (s.setContBuf b).rej = s.rej := rfl
@[simp] theorem State.setContBuf_errCode (s : State) (b : Buffer) : (s.setContBuf b).errCode = s.errCode := rfl
@[simp] theorem State.setContBuf_errInfo (s : State) (b : Buffer) : (s.setContBuf b).errInfo = s.errInfo := rfl
@[simp] theorem State.setContBuf_valid (s : State) (b : Buffer) : (s.setContBuf b).valid = s.valid := rfl
@[simp] theorem State.setContBuf_msgLen (s : State) (b : Buffer) : (s.setContBuf b).msgLen = s.msgLen := rfl
@[simp] theorem State.setContBuf_contLen (s : State) (b : Buffer) : (s.setContBuf b).contLen = s.contLen := rfl
@[simp] theorem State.setContBuf_codeSel (s : State) (b : Buffer) : (s.setContBuf b).codeSel = s.codeSel := rfl
@[simp] theorem State.setContBuf_tables (s : State) (b : Buffer) : (s.setContBuf b).tables = s.tables := rfl
@[simp] theorem State.setContBuf_msgBuf (s : State) (b : Buffer) : (s.setContBuf b).msgBuf = s.msgBuf := rfl
@[simp] theorem State.setContBuf_contBuf (s : State) (b : Buffer) : (s.setContBuf b).contBuf = b := rfl
@[simp] theorem State.setContBuf_caps (s : State) (b : Buffer) : (s.setContBuf b).caps = s.caps := rfl
@[simp] theorem State.setContBuf_response (s : State) (b : Buffer) : (s.setContBuf b).response = s.response := rfl
@[simp] theorem State.setContBuf_events (s : State) (b : Buffer) : (s.setContBuf b).events = s.events := rfl
@[simp] theorem State.setContBuf_draws (s : State) (b : Buffer) : (s.setContBuf b).draws = s.draws := rfl

/-! ### State.setEvents -/

@[simp] theorem State.setEvents_engine (s : State) (es : List Event) : (s.setEvents es).engine = s.engine := rfl
@[simp] theorem State.setEvents_ie (s : State) (es : List Event) : (s.setEvents es).ie = s.ie := rfl
@[simp] theorem State.setEvents_sym8 (s : State) (es : List Event) : (s.setEvents es).sym8 = s.sym8 := rfl
@[simp] theorem State.setEvents_lastCmd (s : State) (es : List Event) : (s.setEvents es).lastCmd = s.lastCmd := rfl
@[simp] theorem State.setEvents_done (s : State) (es : List Event) : (s.setEvents es).done = s.done := rfl
@[simp] theorem State.setEvents_err (s : State) (es : List Event) : (s.setEvents es).err = s.err := rfl
@[simp] theorem State.setEvents_rej (s : State) (es : List Event) : (s.setEvents es).rej = s.rej := rfl
@[simp] theorem State.setEvents_errCode (s : State) (es : List Event) : (s.setEvents es).errCode = s.errCode := rfl
@[simp] theorem State.setEvents_errInfo (s : State) (es : List Event) : (s.setEvents es).errInfo = s.errInfo := rfl
@[simp] theorem State.setEvents_valid (s : State) (es : List Event) : (s.setEvents es).valid = s.valid := rfl
@[simp] theorem State.setEvents_msgLen (s : State) (es : List Event) : (s.setEvents es).msgLen = s.msgLen := rfl
@[simp] theorem State.setEvents_contLen (s : State) (es : List Event) : (s.setEvents es).contLen = s.contLen := rfl
@[simp] theorem State.setEvents_codeSel (s : State) (es : List Event) : (s.setEvents es).codeSel = s.codeSel := rfl
@[simp] theorem State.setEvents_tables (s : State) (es : List Event) : (s.setEvents es).tables = s.tables := rfl
@[simp] theorem State.setEvents_msgBuf (s : State) (es : List Event) : (s.setEvents es).msgBuf = s.msgBuf := rfl
@[simp] theorem State.setEvents_contBuf (s : State) (es : List Event) : (s.setEvents es).contBuf = s.contBuf := rfl
@[simp] theorem State.setEvents_caps (s : State) (es : List Event) : (s.setEvents es).caps = s.caps := rfl
@[simp] theorem State.setEvents_response (s : State) (es : List Event) : (s.setEvents es).response = s.response := rfl
@[simp] theorem State.setEvents_events (s : State) (es : List Event) : (s.setEvents es).events = es := rfl
@[simp] theorem State.setEvents_draws (s : State) (es : List Event) : (s.setEvents es).draws = s.draws := rfl

/-! ### State.setResponse -/

@[simp] theorem State.setResponse_engine (s : State) (r : Response) : (s.setResponse r).engine = s.engine := rfl
@[simp] theorem State.setResponse_ie (s : State) (r : Response) : (s.setResponse r).ie = s.ie := rfl
@[simp] theorem State.setResponse_sym8 (s : State) (r : Response) : (s.setResponse r).sym8 = s.sym8 := rfl
@[simp] theorem State.setResponse_lastCmd (s : State) (r : Response) : (s.setResponse r).lastCmd = s.lastCmd := rfl
@[simp] theorem State.setResponse_done (s : State) (r : Response) : (s.setResponse r).done = s.done := rfl
@[simp] theorem State.setResponse_err (s : State) (r : Response) : (s.setResponse r).err = s.err := rfl
@[simp] theorem State.setResponse_rej (s : State) (r : Response) : (s.setResponse r).rej = s.rej := rfl
@[simp] theorem State.setResponse_errCode (s : State) (r : Response) : (s.setResponse r).errCode = s.errCode := rfl
@[simp] theorem State.setResponse_errInfo (s : State) (r : Response) : (s.setResponse r).errInfo = s.errInfo := rfl
@[simp] theorem State.setResponse_valid (s : State) (r : Response) : (s.setResponse r).valid = s.valid := rfl
@[simp] theorem State.setResponse_msgLen (s : State) (r : Response) : (s.setResponse r).msgLen = s.msgLen := rfl
@[simp] theorem State.setResponse_contLen (s : State) (r : Response) : (s.setResponse r).contLen = s.contLen := rfl
@[simp] theorem State.setResponse_codeSel (s : State) (r : Response) : (s.setResponse r).codeSel = s.codeSel := rfl
@[simp] theorem State.setResponse_tables (s : State) (r : Response) : (s.setResponse r).tables = s.tables := rfl
@[simp] theorem State.setResponse_msgBuf (s : State) (r : Response) : (s.setResponse r).msgBuf = s.msgBuf := rfl
@[simp] theorem State.setResponse_contBuf (s : State) (r : Response) : (s.setResponse r).contBuf = s.contBuf := rfl
@[simp] theorem State.setResponse_caps (s : State) (r : Response) : (s.setResponse r).caps = s.caps := rfl
@[simp] theorem State.setResponse_response (s : State) (r : Response) : (s.setResponse r).response = some r := rfl
@[simp] theorem State.setResponse_events (s : State) (r : Response) : (s.setResponse r).events = s.events := rfl
@[simp] theorem State.setResponse_draws (s : State) (r : Response) : (s.setResponse r).draws = s.draws := rfl

/-! ### State.setIe -/

@[simp] theorem State.setIe_engine (s : State) (b : Bool) : (s.setIe b).engine = s.engine := rfl
@[simp] theorem State.setIe_ie (s : State) (b : Bool) : (s.setIe b).ie = b := rfl
@[simp] theorem State.setIe_sym8 (s : State) (b : Bool) : (s.setIe b).sym8 = s.sym8 := rfl
@[simp] theorem State.setIe_lastCmd (s : State) (b : Bool) : (s.setIe b).lastCmd = s.lastCmd := rfl
@[simp] theorem State.setIe_done (s : State) (b : Bool) : (s.setIe b).done = s.done := rfl
@[simp] theorem State.setIe_err (s : State) (b : Bool) : (s.setIe b).err = s.err := rfl
@[simp] theorem State.setIe_rej (s : State) (b : Bool) : (s.setIe b).rej = s.rej := rfl
@[simp] theorem State.setIe_errCode (s : State) (b : Bool) : (s.setIe b).errCode = s.errCode := rfl
@[simp] theorem State.setIe_errInfo (s : State) (b : Bool) : (s.setIe b).errInfo = s.errInfo := rfl
@[simp] theorem State.setIe_valid (s : State) (b : Bool) : (s.setIe b).valid = s.valid := rfl
@[simp] theorem State.setIe_msgLen (s : State) (b : Bool) : (s.setIe b).msgLen = s.msgLen := rfl
@[simp] theorem State.setIe_contLen (s : State) (b : Bool) : (s.setIe b).contLen = s.contLen := rfl
@[simp] theorem State.setIe_codeSel (s : State) (b : Bool) : (s.setIe b).codeSel = s.codeSel := rfl
@[simp] theorem State.setIe_tables (s : State) (b : Bool) : (s.setIe b).tables = s.tables := rfl
@[simp] theorem State.setIe_msgBuf (s : State) (b : Bool) : (s.setIe b).msgBuf = s.msgBuf := rfl
@[simp] theorem State.setIe_contBuf (s : State) (b : Bool) : (s.setIe b).contBuf = s.contBuf := rfl
@[simp] theorem State.setIe_caps (s : State) (b : Bool) : (s.setIe b).caps = s.caps := rfl
@[simp] theorem State.setIe_response (s : State) (b : Bool) : (s.setIe b).response = s.response := rfl
@[simp] theorem State.setIe_events (s : State) (b : Bool) : (s.setIe b).events = s.events := rfl
@[simp] theorem State.setIe_draws (s : State) (b : Bool) : (s.setIe b).draws = s.draws := rfl

/-! ### State.setSym8 -/

@[simp] theorem State.setSym8_engine (s : State) (b : Bool) : (s.setSym8 b).engine = s.engine := rfl
@[simp] theorem State.setSym8_ie (s : State) (b : Bool) : (s.setSym8 b).ie = s.ie := rfl
@[simp] theorem State.setSym8_sym8 (s : State) (b : Bool) : (s.setSym8 b).sym8 = b := rfl
@[simp] theorem State.setSym8_lastCmd (s : State) (b : Bool) : (s.setSym8 b).lastCmd = s.lastCmd := rfl
@[simp] theorem State.setSym8_done (s : State) (b : Bool) : (s.setSym8 b).done = s.done := rfl
@[simp] theorem State.setSym8_err (s : State) (b : Bool) : (s.setSym8 b).err = s.err := rfl
@[simp] theorem State.setSym8_rej (s : State) (b : Bool) : (s.setSym8 b).rej = s.rej := rfl
@[simp] theorem State.setSym8_errCode (s : State) (b : Bool) : (s.setSym8 b).errCode = s.errCode := rfl
@[simp] theorem State.setSym8_errInfo (s : State) (b : Bool) : (s.setSym8 b).errInfo = s.errInfo := rfl
@[simp] theorem State.setSym8_valid (s : State) (b : Bool) : (s.setSym8 b).valid = s.valid := rfl
@[simp] theorem State.setSym8_msgLen (s : State) (b : Bool) : (s.setSym8 b).msgLen = s.msgLen := rfl
@[simp] theorem State.setSym8_contLen (s : State) (b : Bool) : (s.setSym8 b).contLen = s.contLen := rfl
@[simp] theorem State.setSym8_codeSel (s : State) (b : Bool) : (s.setSym8 b).codeSel = s.codeSel := rfl
@[simp] theorem State.setSym8_tables (s : State) (b : Bool) : (s.setSym8 b).tables = s.tables := rfl
@[simp] theorem State.setSym8_msgBuf (s : State) (b : Bool) : (s.setSym8 b).msgBuf = s.msgBuf := rfl
@[simp] theorem State.setSym8_contBuf (s : State) (b : Bool) : (s.setSym8 b).contBuf = s.contBuf := rfl
@[simp] theorem State.setSym8_caps (s : State) (b : Bool) : (s.setSym8 b).caps = s.caps := rfl
@[simp] theorem State.setSym8_response (s : State) (b : Bool) : (s.setSym8 b).response = s.response := rfl
@[simp] theorem State.setSym8_events (s : State) (b : Bool) : (s.setSym8 b).events = s.events := rfl
@[simp] theorem State.setSym8_draws (s : State) (b : Bool) : (s.setSym8 b).draws = s.draws := rfl

/-! ### State.setRej -/

@[simp] theorem State.setRej_engine (s : State) (b : Bool) : (s.setRej b).engine = s.engine := rfl
@[simp] theorem State.setRej_ie (s : State) (b : Bool) : (s.setRej b).ie = s.ie := rfl
@[simp] theorem State.setRej_sym8 (s : State) (b : Bool) : (s.setRej b).sym8 = s.sym8 := rfl
@[simp] theorem State.setRej_lastCmd (s : State) (b : Bool) : (s.setRej b).lastCmd = s.lastCmd := rfl
@[simp] theorem State.setRej_done (s : State) (b : Bool) : (s.setRej b).done = s.done := rfl
@[simp] theorem State.setRej_err (s : State) (b : Bool) : (s.setRej b).err = s.err := rfl
@[simp] theorem State.setRej_rej (s : State) (b : Bool) : (s.setRej b).rej = b := rfl
@[simp] theorem State.setRej_errCode (s : State) (b : Bool) : (s.setRej b).errCode = s.errCode := rfl
@[simp] theorem State.setRej_errInfo (s : State) (b : Bool) : (s.setRej b).errInfo = s.errInfo := rfl
@[simp] theorem State.setRej_valid (s : State) (b : Bool) : (s.setRej b).valid = s.valid := rfl
@[simp] theorem State.setRej_msgLen (s : State) (b : Bool) : (s.setRej b).msgLen = s.msgLen := rfl
@[simp] theorem State.setRej_contLen (s : State) (b : Bool) : (s.setRej b).contLen = s.contLen := rfl
@[simp] theorem State.setRej_codeSel (s : State) (b : Bool) : (s.setRej b).codeSel = s.codeSel := rfl
@[simp] theorem State.setRej_tables (s : State) (b : Bool) : (s.setRej b).tables = s.tables := rfl
@[simp] theorem State.setRej_msgBuf (s : State) (b : Bool) : (s.setRej b).msgBuf = s.msgBuf := rfl
@[simp] theorem State.setRej_contBuf (s : State) (b : Bool) : (s.setRej b).contBuf = s.contBuf := rfl
@[simp] theorem State.setRej_caps (s : State) (b : Bool) : (s.setRej b).caps = s.caps := rfl
@[simp] theorem State.setRej_response (s : State) (b : Bool) : (s.setRej b).response = s.response := rfl
@[simp] theorem State.setRej_events (s : State) (b : Bool) : (s.setRej b).events = s.events := rfl
@[simp] theorem State.setRej_draws (s : State) (b : Bool) : (s.setRej b).draws = s.draws := rfl

/-! ### State.nextDraw -/

@[simp] theorem State.nextDraw_engine (s : State) : (s.nextDraw).engine = s.engine := rfl
@[simp] theorem State.nextDraw_ie (s : State) : (s.nextDraw).ie = s.ie := rfl
@[simp] theorem State.nextDraw_sym8 (s : State) : (s.nextDraw).sym8 = s.sym8 := rfl
@[simp] theorem State.nextDraw_lastCmd (s : State) : (s.nextDraw).lastCmd = s.lastCmd := rfl
@[simp] theorem State.nextDraw_done (s : State) : (s.nextDraw).done = s.done := rfl
@[simp] theorem State.nextDraw_err (s : State) : (s.nextDraw).err = s.err := rfl
@[simp] theorem State.nextDraw_rej (s : State) : (s.nextDraw).rej = s.rej := rfl
@[simp] theorem State.nextDraw_errCode (s : State) : (s.nextDraw).errCode = s.errCode := rfl
@[simp] theorem State.nextDraw_errInfo (s : State) : (s.nextDraw).errInfo = s.errInfo := rfl
@[simp] theorem State.nextDraw_valid (s : State) : (s.nextDraw).valid = s.valid := rfl
@[simp] theorem State.nextDraw_msgLen (s : State) : (s.nextDraw).msgLen = s.msgLen := rfl
@[simp] theorem State.nextDraw_contLen (s : State) : (s.nextDraw).contLen = s.contLen := rfl
@[simp] theorem State.nextDraw_codeSel (s : State) : (s.nextDraw).codeSel = s.codeSel := rfl
@[simp] theorem State.nextDraw_tables (s : State) : (s.nextDraw).tables = s.tables := rfl
@[simp] theorem State.nextDraw_msgBuf (s : State) : (s.nextDraw).msgBuf = s.msgBuf := rfl
@[simp] theorem State.nextDraw_contBuf (s : State) : (s.nextDraw).contBuf = s.contBuf := rfl
@[simp] theorem State.nextDraw_caps (s : State) : (s.nextDraw).caps = s.caps := rfl
@[simp] theorem State.nextDraw_response (s : State) : (s.nextDraw).response = s.response := rfl
@[simp] theorem State.nextDraw_events (s : State) : (s.nextDraw).events = s.events := rfl
@[simp] theorem State.nextDraw_draws (s : State) : (s.nextDraw).draws = s.draws + 1 := rfl

/-! ### State.succeed -/

@[simp] theorem State.succeed_engine (s : State) : (s.succeed).engine = .idle := rfl
@[simp] theorem State.succeed_ie (s : State) : (s.succeed).ie = s.ie := rfl
@[simp] theorem State.succeed_sym8 (s : State) : (s.succeed).sym8 = s.sym8 := rfl
@[simp] theorem State.succeed_lastCmd (s : State) : (s.succeed).lastCmd = s.lastCmd := rfl
@[simp] theorem State.succeed_done (s : State) : (s.succeed).done = true := rfl
@[simp] theorem State.succeed_err (s : State) : (s.succeed).err = s.err := rfl
@[simp] theorem State.succeed_rej (s : State) : (s.succeed).rej = s.rej := rfl
@[simp] theorem State.succeed_errCode (s : State) : (s.succeed).errCode = s.errCode := rfl
@[simp] theorem State.succeed_errInfo (s : State) : (s.succeed).errInfo = s.errInfo := rfl
@[simp] theorem State.succeed_valid (s : State) : (s.succeed).valid = s.valid := rfl
@[simp] theorem State.succeed_msgLen (s : State) : (s.succeed).msgLen = s.msgLen := rfl
@[simp] theorem State.succeed_contLen (s : State) : (s.succeed).contLen = s.contLen := rfl
@[simp] theorem State.succeed_codeSel (s : State) : (s.succeed).codeSel = s.codeSel := rfl
@[simp] theorem State.succeed_tables (s : State) : (s.succeed).tables = s.tables := rfl
@[simp] theorem State.succeed_msgBuf (s : State) : (s.succeed).msgBuf = s.msgBuf := rfl
@[simp] theorem State.succeed_contBuf (s : State) : (s.succeed).contBuf = s.contBuf := rfl
@[simp] theorem State.succeed_caps (s : State) : (s.succeed).caps = s.caps := rfl
@[simp] theorem State.succeed_response (s : State) : (s.succeed).response = s.response := rfl
@[simp] theorem State.succeed_events (s : State) : (s.succeed).events = s.events := rfl
@[simp] theorem State.succeed_draws (s : State) : (s.succeed).draws = s.draws := rfl

/-! ### State.fail -/

@[simp] theorem State.fail_engine (s : State) (e : CmdError) : (s.fail e).engine = .idle := rfl
@[simp] theorem State.fail_ie (s : State) (e : CmdError) : (s.fail e).ie = s.ie := rfl
@[simp] theorem State.fail_sym8 (s : State) (e : CmdError) : (s.fail e).sym8 = s.sym8 := rfl
@[simp] theorem State.fail_lastCmd (s : State) (e : CmdError) : (s.fail e).lastCmd = s.lastCmd := rfl
@[simp] theorem State.fail_done (s : State) (e : CmdError) : (s.fail e).done = true := rfl
@[simp] theorem State.fail_err (s : State) (e : CmdError) : (s.fail e).err = true := rfl
@[simp] theorem State.fail_rej (s : State) (e : CmdError) : (s.fail e).rej = s.rej := rfl
@[simp] theorem State.fail_errCode (s : State) (e : CmdError) : (s.fail e).errCode = e.code := rfl
@[simp] theorem State.fail_errInfo (s : State) (e : CmdError) : (s.fail e).errInfo = e.info := rfl
@[simp] theorem State.fail_valid (s : State) (e : CmdError) : (s.fail e).valid = s.valid := rfl
@[simp] theorem State.fail_msgLen (s : State) (e : CmdError) : (s.fail e).msgLen = s.msgLen := rfl
@[simp] theorem State.fail_contLen (s : State) (e : CmdError) : (s.fail e).contLen = s.contLen := rfl
@[simp] theorem State.fail_codeSel (s : State) (e : CmdError) : (s.fail e).codeSel = s.codeSel := rfl
@[simp] theorem State.fail_tables (s : State) (e : CmdError) : (s.fail e).tables = s.tables := rfl
@[simp] theorem State.fail_msgBuf (s : State) (e : CmdError) : (s.fail e).msgBuf = s.msgBuf := rfl
@[simp] theorem State.fail_contBuf (s : State) (e : CmdError) : (s.fail e).contBuf = s.contBuf := rfl
@[simp] theorem State.fail_caps (s : State) (e : CmdError) : (s.fail e).caps = s.caps := rfl
@[simp] theorem State.fail_response (s : State) (e : CmdError) : (s.fail e).response = s.response := rfl
@[simp] theorem State.fail_events (s : State) (e : CmdError) : (s.fail e).events = s.events := rfl
@[simp] theorem State.fail_draws (s : State) (e : CmdError) : (s.fail e).draws = s.draws := rfl

/-! ### State.clearStatus -/

@[simp] theorem State.clearStatus_engine (s : State) (o : Byte) : (s.clearStatus o).engine = s.engine := rfl
@[simp] theorem State.clearStatus_ie (s : State) (o : Byte) : (s.clearStatus o).ie = s.ie := rfl
@[simp] theorem State.clearStatus_sym8 (s : State) (o : Byte) : (s.clearStatus o).sym8 = s.sym8 := rfl
@[simp] theorem State.clearStatus_lastCmd (s : State) (o : Byte) : (s.clearStatus o).lastCmd = o := rfl
@[simp] theorem State.clearStatus_done (s : State) (o : Byte) : (s.clearStatus o).done = false := rfl
@[simp] theorem State.clearStatus_err (s : State) (o : Byte) : (s.clearStatus o).err = false := rfl
@[simp] theorem State.clearStatus_rej (s : State) (o : Byte) : (s.clearStatus o).rej = s.rej := rfl
@[simp] theorem State.clearStatus_errCode (s : State) (o : Byte) : (s.clearStatus o).errCode = .none := rfl
@[simp] theorem State.clearStatus_errInfo (s : State) (o : Byte) : (s.clearStatus o).errInfo = 0 := rfl
@[simp] theorem State.clearStatus_valid (s : State) (o : Byte) : (s.clearStatus o).valid = s.valid := rfl
@[simp] theorem State.clearStatus_msgLen (s : State) (o : Byte) : (s.clearStatus o).msgLen = s.msgLen := rfl
@[simp] theorem State.clearStatus_contLen (s : State) (o : Byte) : (s.clearStatus o).contLen = s.contLen := rfl
@[simp] theorem State.clearStatus_codeSel (s : State) (o : Byte) : (s.clearStatus o).codeSel = s.codeSel := rfl
@[simp] theorem State.clearStatus_tables (s : State) (o : Byte) : (s.clearStatus o).tables = s.tables := rfl
@[simp] theorem State.clearStatus_msgBuf (s : State) (o : Byte) : (s.clearStatus o).msgBuf = s.msgBuf := rfl
@[simp] theorem State.clearStatus_contBuf (s : State) (o : Byte) : (s.clearStatus o).contBuf = s.contBuf := rfl
@[simp] theorem State.clearStatus_caps (s : State) (o : Byte) : (s.clearStatus o).caps = s.caps := rfl
@[simp] theorem State.clearStatus_response (s : State) (o : Byte) : (s.clearStatus o).response = s.response := rfl
@[simp] theorem State.clearStatus_events (s : State) (o : Byte) : (s.clearStatus o).events = s.events := rfl
@[simp] theorem State.clearStatus_draws (s : State) (o : Byte) : (s.clearStatus o).draws = s.draws := rfl

/-! ### State.loseMsgBuf -/

@[simp] theorem State.loseMsgBuf_engine (s : State) : (s.loseMsgBuf).engine = s.engine := rfl
@[simp] theorem State.loseMsgBuf_ie (s : State) : (s.loseMsgBuf).ie = s.ie := rfl
@[simp] theorem State.loseMsgBuf_sym8 (s : State) : (s.loseMsgBuf).sym8 = s.sym8 := rfl
@[simp] theorem State.loseMsgBuf_lastCmd (s : State) : (s.loseMsgBuf).lastCmd = s.lastCmd := rfl
@[simp] theorem State.loseMsgBuf_done (s : State) : (s.loseMsgBuf).done = s.done := rfl
@[simp] theorem State.loseMsgBuf_err (s : State) : (s.loseMsgBuf).err = s.err := rfl
@[simp] theorem State.loseMsgBuf_rej (s : State) : (s.loseMsgBuf).rej = s.rej := rfl
@[simp] theorem State.loseMsgBuf_errCode (s : State) : (s.loseMsgBuf).errCode = s.errCode := rfl
@[simp] theorem State.loseMsgBuf_errInfo (s : State) : (s.loseMsgBuf).errInfo = s.errInfo := rfl
@[simp] theorem State.loseMsgBuf_valid (s : State) : (s.loseMsgBuf).valid = s.valid := rfl
@[simp] theorem State.loseMsgBuf_msgLen (s : State) : (s.loseMsgBuf).msgLen = s.msgLen := rfl
@[simp] theorem State.loseMsgBuf_contLen (s : State) : (s.loseMsgBuf).contLen = s.contLen := rfl
@[simp] theorem State.loseMsgBuf_codeSel (s : State) : (s.loseMsgBuf).codeSel = s.codeSel := rfl
@[simp] theorem State.loseMsgBuf_tables (s : State) : (s.loseMsgBuf).tables = s.tables := rfl
@[simp] theorem State.loseMsgBuf_msgBuf (s : State) : (s.loseMsgBuf).msgBuf = Buffer.unspecified s.draws := rfl
@[simp] theorem State.loseMsgBuf_contBuf (s : State) : (s.loseMsgBuf).contBuf = s.contBuf := rfl
@[simp] theorem State.loseMsgBuf_caps (s : State) : (s.loseMsgBuf).caps = s.caps := rfl
@[simp] theorem State.loseMsgBuf_response (s : State) : (s.loseMsgBuf).response = s.response := rfl
@[simp] theorem State.loseMsgBuf_events (s : State) : (s.loseMsgBuf).events = s.events := rfl
@[simp] theorem State.loseMsgBuf_draws (s : State) : (s.loseMsgBuf).draws = s.draws + 1 := rfl

/-! ### State.loseTables -/

@[simp] theorem State.loseTables_engine (s : State) : (s.loseTables).engine = s.engine := rfl
@[simp] theorem State.loseTables_ie (s : State) : (s.loseTables).ie = s.ie := rfl
@[simp] theorem State.loseTables_sym8 (s : State) : (s.loseTables).sym8 = s.sym8 := rfl
@[simp] theorem State.loseTables_lastCmd (s : State) : (s.loseTables).lastCmd = s.lastCmd := rfl
@[simp] theorem State.loseTables_done (s : State) : (s.loseTables).done = s.done := rfl
@[simp] theorem State.loseTables_err (s : State) : (s.loseTables).err = s.err := rfl
@[simp] theorem State.loseTables_rej (s : State) : (s.loseTables).rej = s.rej := rfl
@[simp] theorem State.loseTables_errCode (s : State) : (s.loseTables).errCode = s.errCode := rfl
@[simp] theorem State.loseTables_errInfo (s : State) : (s.loseTables).errInfo = s.errInfo := rfl
@[simp] theorem State.loseTables_valid (s : State) : (s.loseTables).valid = s.valid := rfl
@[simp] theorem State.loseTables_msgLen (s : State) : (s.loseTables).msgLen = s.msgLen := rfl
@[simp] theorem State.loseTables_contLen (s : State) : (s.loseTables).contLen = s.contLen := rfl
@[simp] theorem State.loseTables_codeSel (s : State) : (s.loseTables).codeSel = s.codeSel := rfl
@[simp] theorem State.loseTables_tables (s : State) : (s.loseTables).tables = Config.freeTables s.draws := rfl
@[simp] theorem State.loseTables_msgBuf (s : State) : (s.loseTables).msgBuf = s.msgBuf := rfl
@[simp] theorem State.loseTables_contBuf (s : State) : (s.loseTables).contBuf = s.contBuf := rfl
@[simp] theorem State.loseTables_caps (s : State) : (s.loseTables).caps = s.caps := rfl
@[simp] theorem State.loseTables_response (s : State) : (s.loseTables).response = s.response := rfl
@[simp] theorem State.loseTables_events (s : State) : (s.loseTables).events = s.events := rfl
@[simp] theorem State.loseTables_draws (s : State) : (s.loseTables).draws = s.draws + 1 := rfl

/-! ### State.msgWrite -/

@[simp] theorem State.msgWrite_engine (s : State) (off : Nat) (l : List Byte) : (s.msgWrite off l).engine = s.engine := rfl
@[simp] theorem State.msgWrite_ie (s : State) (off : Nat) (l : List Byte) : (s.msgWrite off l).ie = s.ie := rfl
@[simp] theorem State.msgWrite_sym8 (s : State) (off : Nat) (l : List Byte) : (s.msgWrite off l).sym8 = s.sym8 := rfl
@[simp] theorem State.msgWrite_lastCmd (s : State) (off : Nat) (l : List Byte) : (s.msgWrite off l).lastCmd = s.lastCmd := rfl
@[simp] theorem State.msgWrite_done (s : State) (off : Nat) (l : List Byte) : (s.msgWrite off l).done = s.done := rfl
@[simp] theorem State.msgWrite_err (s : State) (off : Nat) (l : List Byte) : (s.msgWrite off l).err = s.err := rfl
@[simp] theorem State.msgWrite_rej (s : State) (off : Nat) (l : List Byte) : (s.msgWrite off l).rej = s.rej := rfl
@[simp] theorem State.msgWrite_errCode (s : State) (off : Nat) (l : List Byte) : (s.msgWrite off l).errCode = s.errCode := rfl
@[simp] theorem State.msgWrite_errInfo (s : State) (off : Nat) (l : List Byte) : (s.msgWrite off l).errInfo = s.errInfo := rfl
@[simp] theorem State.msgWrite_valid (s : State) (off : Nat) (l : List Byte) : (s.msgWrite off l).valid = s.valid := rfl
@[simp] theorem State.msgWrite_msgLen (s : State) (off : Nat) (l : List Byte) : (s.msgWrite off l).msgLen = s.msgLen := rfl
@[simp] theorem State.msgWrite_contLen (s : State) (off : Nat) (l : List Byte) : (s.msgWrite off l).contLen = s.contLen := rfl
@[simp] theorem State.msgWrite_codeSel (s : State) (off : Nat) (l : List Byte) : (s.msgWrite off l).codeSel = s.codeSel := rfl
@[simp] theorem State.msgWrite_tables (s : State) (off : Nat) (l : List Byte) : (s.msgWrite off l).tables = s.tables := rfl
@[simp] theorem State.msgWrite_msgBuf (s : State) (off : Nat) (l : List Byte) : (s.msgWrite off l).msgBuf = s.msgBuf.writeList s.caps.msgCap off l := rfl
@[simp] theorem State.msgWrite_contBuf (s : State) (off : Nat) (l : List Byte) : (s.msgWrite off l).contBuf = s.contBuf := rfl
@[simp] theorem State.msgWrite_caps (s : State) (off : Nat) (l : List Byte) : (s.msgWrite off l).caps = s.caps := rfl
@[simp] theorem State.msgWrite_response (s : State) (off : Nat) (l : List Byte) : (s.msgWrite off l).response = s.response := rfl
@[simp] theorem State.msgWrite_events (s : State) (off : Nat) (l : List Byte) : (s.msgWrite off l).events = s.events := rfl
@[simp] theorem State.msgWrite_draws (s : State) (off : Nat) (l : List Byte) : (s.msgWrite off l).draws = s.draws := rfl

/-! ### State.contWrite -/

@[simp] theorem State.contWrite_engine (s : State) (off : Nat) (l : List Byte) : (s.contWrite off l).engine = s.engine := rfl
@[simp] theorem State.contWrite_ie (s : State) (off : Nat) (l : List Byte) : (s.contWrite off l).ie = s.ie := rfl
@[simp] theorem State.contWrite_sym8 (s : State) (off : Nat) (l : List Byte) : (s.contWrite off l).sym8 = s.sym8 := rfl
@[simp] theorem State.contWrite_lastCmd (s : State) (off : Nat) (l : List Byte) : (s.contWrite off l).lastCmd = s.lastCmd := rfl
@[simp] theorem State.contWrite_done (s : State) (off : Nat) (l : List Byte) : (s.contWrite off l).done = s.done := rfl
@[simp] theorem State.contWrite_err (s : State) (off : Nat) (l : List Byte) : (s.contWrite off l).err = s.err := rfl
@[simp] theorem State.contWrite_rej (s : State) (off : Nat) (l : List Byte) : (s.contWrite off l).rej = s.rej := rfl
@[simp] theorem State.contWrite_errCode (s : State) (off : Nat) (l : List Byte) : (s.contWrite off l).errCode = s.errCode := rfl
@[simp] theorem State.contWrite_errInfo (s : State) (off : Nat) (l : List Byte) : (s.contWrite off l).errInfo = s.errInfo := rfl
@[simp] theorem State.contWrite_valid (s : State) (off : Nat) (l : List Byte) : (s.contWrite off l).valid = s.valid := rfl
@[simp] theorem State.contWrite_msgLen (s : State) (off : Nat) (l : List Byte) : (s.contWrite off l).msgLen = s.msgLen := rfl
@[simp] theorem State.contWrite_contLen (s : State) (off : Nat) (l : List Byte) : (s.contWrite off l).contLen = s.contLen := rfl
@[simp] theorem State.contWrite_codeSel (s : State) (off : Nat) (l : List Byte) : (s.contWrite off l).codeSel = s.codeSel := rfl
@[simp] theorem State.contWrite_tables (s : State) (off : Nat) (l : List Byte) : (s.contWrite off l).tables = s.tables := rfl
@[simp] theorem State.contWrite_msgBuf (s : State) (off : Nat) (l : List Byte) : (s.contWrite off l).msgBuf = s.msgBuf := rfl
@[simp] theorem State.contWrite_contBuf (s : State) (off : Nat) (l : List Byte) : (s.contWrite off l).contBuf = s.contBuf.writeList s.caps.contCap off l := rfl
@[simp] theorem State.contWrite_caps (s : State) (off : Nat) (l : List Byte) : (s.contWrite off l).caps = s.caps := rfl
@[simp] theorem State.contWrite_response (s : State) (off : Nat) (l : List Byte) : (s.contWrite off l).response = s.response := rfl
@[simp] theorem State.contWrite_events (s : State) (off : Nat) (l : List Byte) : (s.contWrite off l).events = s.events := rfl
@[simp] theorem State.contWrite_draws (s : State) (off : Nat) (l : List Byte) : (s.contWrite off l).draws = s.draws := rfl

/-! ### State.writeStatus -/

@[simp] theorem State.writeStatus_engine (s : State) (v : Word) : (s.writeStatus v).engine = s.engine := rfl
@[simp] theorem State.writeStatus_ie (s : State) (v : Word) : (s.writeStatus v).ie = s.ie := rfl
@[simp] theorem State.writeStatus_sym8 (s : State) (v : Word) : (s.writeStatus v).sym8 = s.sym8 := rfl
@[simp] theorem State.writeStatus_lastCmd (s : State) (v : Word) : (s.writeStatus v).lastCmd = s.lastCmd := rfl
@[simp] theorem State.writeStatus_done (s : State) (v : Word) : (s.writeStatus v).done = (s.done && !v.getLsbD 1) := rfl
@[simp] theorem State.writeStatus_err (s : State) (v : Word) : (s.writeStatus v).err = (s.err && !v.getLsbD 2) := rfl
@[simp] theorem State.writeStatus_rej (s : State) (v : Word) : (s.writeStatus v).rej = (s.rej && !v.getLsbD 3) := rfl
@[simp] theorem State.writeStatus_errCode (s : State) (v : Word) : (s.writeStatus v).errCode = s.errCode := rfl
@[simp] theorem State.writeStatus_errInfo (s : State) (v : Word) : (s.writeStatus v).errInfo = s.errInfo := rfl
@[simp] theorem State.writeStatus_valid (s : State) (v : Word) : (s.writeStatus v).valid = s.valid := rfl
@[simp] theorem State.writeStatus_msgLen (s : State) (v : Word) : (s.writeStatus v).msgLen = s.msgLen := rfl
@[simp] theorem State.writeStatus_contLen (s : State) (v : Word) : (s.writeStatus v).contLen = s.contLen := rfl
@[simp] theorem State.writeStatus_codeSel (s : State) (v : Word) : (s.writeStatus v).codeSel = s.codeSel := rfl
@[simp] theorem State.writeStatus_tables (s : State) (v : Word) : (s.writeStatus v).tables = s.tables := rfl
@[simp] theorem State.writeStatus_msgBuf (s : State) (v : Word) : (s.writeStatus v).msgBuf = s.msgBuf := rfl
@[simp] theorem State.writeStatus_contBuf (s : State) (v : Word) : (s.writeStatus v).contBuf = s.contBuf := rfl
@[simp] theorem State.writeStatus_caps (s : State) (v : Word) : (s.writeStatus v).caps = s.caps := rfl
@[simp] theorem State.writeStatus_response (s : State) (v : Word) : (s.writeStatus v).response = s.response := rfl
@[simp] theorem State.writeStatus_events (s : State) (v : Word) : (s.writeStatus v).events = s.events := rfl
@[simp] theorem State.writeStatus_draws (s : State) (v : Word) : (s.writeStatus v).draws = s.draws := rfl

end Sys2Proof.Machine
end

