-- ==== Sys2Proof/Laws/Memory.lean ====
section
/-! SUPPORT. The laws of the buffers' memory: read after write, frame, and the canonical form kept by every operation. -/

namespace Sys2Proof.Machine

/-! ### The cell list -/

@[simp] theorem Memory.find_put_same (m : List Host.Cell) (i : Nat) (v : Byte) :
    Memory.find (Memory.put m i v) i = some v := by
  induction m with
  | nil => simp [Memory.put, Memory.find]
  | cons c m ih =>
    obtain ⟨a, w⟩ := c
    simp only [Memory.put]
    split
    · simp [Memory.find]
    · split
      · simp [Memory.find]
      · rename_i h₁ h₂
        simp [Memory.find, ih, show a ≠ i from fun h => h₂ h.symm]

theorem Memory.find_put_other (m : List Host.Cell) {i j : Nat} (v : Byte) (h : j ≠ i) :
    Memory.find (Memory.put m i v) j = Memory.find m j := by
  induction m with
  | nil => simp [Memory.put, Memory.find, h.symm]
  | cons c m ih =>
    obtain ⟨a, w⟩ := c
    simp only [Memory.put]
    split
    · simp [Memory.find, h.symm]
    · split
      · rename_i _ h₂
        subst h₂
        simp [Memory.find, h.symm]
      · simp [Memory.find, ih]

theorem Memory.wf_cons {c : Host.Cell} {m : List Host.Cell} :
    Memory.wf (c :: m) = true ↔ (∀ d ∈ m.head?, c.1 < d.1) ∧ Memory.wf m = true := by
  cases m <;> simp [Memory.wf]

theorem Memory.head_put (m : List Host.Cell) (i : Nat) (v : Byte) (d : Host.Cell)
    (h : d ∈ (Memory.put m i v).head?) : d.1 = i ∨ d ∈ m.head? := by
  cases m with
  | nil => simp [Memory.put] at h; simp [← h]
  | cons c m =>
    obtain ⟨a, w⟩ := c
    simp only [Memory.put] at h
    split at h
    · simp at h; simp [← h]
    · split at h <;> simp at h <;> simp [← h]

/-- A write keeps the canonical form. -/
theorem Memory.wf_put {m : List Host.Cell} (i : Nat) (v : Byte) (h : Memory.wf m = true) :
    Memory.wf (Memory.put m i v) = true := by
  induction m with
  | nil => rfl
  | cons c m ih =>
    obtain ⟨a, w⟩ := c
    obtain ⟨hd, hm⟩ := Memory.wf_cons.mp h
    simp only [Memory.put]
    split
    · exact Memory.wf_cons.mpr ⟨by simpa, h⟩
    · split
      · rename_i h₂
        subst h₂
        exact Memory.wf_cons.mpr ⟨hd, hm⟩
      · rename_i h₁ h₂
        refine Memory.wf_cons.mpr ⟨fun d hd' => ?_, ih hm⟩
        rcases Memory.head_put m i v d hd' with he | he
        · simp only; omega
        · exact hd d he

theorem Memory.mem_put {m : List Host.Cell} {i : Nat} {v : Byte} {c : Host.Cell} (h : c ∈ Memory.put m i v) :
    c = (i, v) ∨ c ∈ m := by
  induction m with
  | nil => simpa [Memory.put] using h
  | cons d m ih =>
    obtain ⟨a, w⟩ := d
    simp only [Memory.put] at h
    split at h
    · simpa using h
    · split at h
      · simp only [List.mem_cons] at h ⊢
        tauto
      · simp only [List.mem_cons] at h ⊢
        rcases h with h | h
        · tauto
        · rcases ih h with h | h <;> tauto

/-! ### Buffers -/

@[simp] theorem Buffer.write_background (cap : Nat) (b : Buffer) (i : Nat) (v : Byte) :
    (b.write cap i v).background = b.background := by
  unfold Buffer.write; split <;> rfl

theorem Buffer.byte_write_same {cap : Nat} {b : Buffer} {i : Nat} (v : Byte) (h : i < cap) :
    (b.write cap i v).byte i = v := by
  simp [Buffer.write, Buffer.byte, h]

theorem Buffer.byte_write_other {cap : Nat} {b : Buffer} {i j : Nat} (v : Byte) (h : j ≠ i) :
    (b.write cap i v).byte j = b.byte j := by
  unfold Buffer.write
  split
  · simp [Buffer.byte, Memory.find_put_other _ v h]
  · rfl

/-- Reading back the byte just written: it reads as written below the capacity and as 0 beyond it (R63). -/
theorem Buffer.read_write_same (cap : Nat) (b : Buffer) (i : Nat) (v : Byte) :
    (b.write cap i v).read cap i = if i < cap then v else 0 := by
  unfold Buffer.read
  split
  · exact Buffer.byte_write_same v ‹_›
  · rfl

/-- A write leaves every other byte alone. -/
theorem Buffer.read_write_other {cap : Nat} {b : Buffer} {i j : Nat} (v : Byte) (h : j ≠ i) :
    (b.write cap i v).read cap j = b.read cap j := by
  simp [Buffer.read, Buffer.byte_write_other v h]

theorem Buffer.write_ok {cap : Nat} {b : Buffer} (i : Nat) (v : Byte)
    (h : Memory.wf b.cells = true ∧ ∀ c ∈ b.cells, c.1 < cap) :
    Memory.wf (b.write cap i v).cells = true ∧ ∀ c ∈ (b.write cap i v).cells, c.1 < cap := by
  unfold Buffer.write
  split
  · refine ⟨Memory.wf_put i v h.1, fun c hc => ?_⟩
    rcases Memory.mem_put hc with rfl | hc
    · assumption
    · exact h.2 c hc
  · exact h

/-- Writing a list of bytes keeps the canonical form and the capacity bound. -/
theorem Buffer.writeList_ok {cap : Nat} {b : Buffer} (off : Nat) (l : List Byte)
    (h : Memory.wf b.cells = true ∧ ∀ c ∈ b.cells, c.1 < cap) :
    Memory.wf (b.writeList cap off l).cells = true ∧ ∀ c ∈ (b.writeList cap off l).cells, c.1 < cap := by
  induction l generalizing b off with
  | nil => exact h
  | cons v l ih => exact ih (off + 1) (Buffer.write_ok off v h)

@[simp] theorem Buffer.writeList_nil (cap : Nat) (b : Buffer) (off : Nat) : b.writeList cap off [] = b := rfl

/-- Outside the written range a list write leaves every byte alone. -/
theorem Buffer.read_writeList_outside {cap : Nat} {b : Buffer} {off j : Nat} {l : List Byte}
    (h : j < off ∨ off + l.length ≤ j) : (b.writeList cap off l).read cap j = b.read cap j := by
  induction l generalizing b off with
  | nil => rfl
  | cons v l ih =>
    simp only [List.length_cons] at h
    rw [Buffer.writeList, ih (by omega), Buffer.read_write_other v (by omega)]

/-- Inside the written range and below the capacity, the byte written. -/
theorem Buffer.read_writeList_inside {cap : Nat} {b : Buffer} {off k : Nat} {l : List Byte}
    (hk : k < l.length) (hc : off + k < cap) : (b.writeList cap off l).read cap (off + k) = l[k] := by
  induction l generalizing b off k with
  | nil => simp at hk
  | cons v l ih =>
    cases k with
    | zero =>
      rw [Buffer.writeList, Buffer.read_writeList_outside (by simp), Nat.add_zero, Buffer.read_write_same,
        if_pos (by simpa using hc), List.getElem_cons_zero]
    | succ k =>
      simp only [List.length_cons, Nat.add_lt_add_iff_right] at hk
      have := ih (b := b.write cap off v) (off := off + 1) hk (by omega)
      rw [Buffer.writeList, List.getElem_cons_succ, ← this]
      congr 1; omega

@[simp] theorem Buffer.readList_length (cap : Nat) (b : Buffer) (off n : Nat) :
    (b.readList cap off n).length = n := by
  induction n generalizing off with
  | zero => rfl
  | succ n ih => simp [Buffer.readList, ih]

theorem Buffer.readList_getElem {cap : Nat} {b : Buffer} {off n k : Nat} (h : k < (b.readList cap off n).length) :
    (b.readList cap off n)[k] = b.read cap (off + k) := by
  induction n generalizing off k with
  | zero => simp [Buffer.readList] at h
  | succ n ih =>
    cases k with
    | zero => simp [Buffer.readList]
    | succ k =>
      simp only [Buffer.readList, List.getElem_cons_succ]
      rw [ih]
      congr 1; omega

theorem Buffer.readList_append (cap : Nat) (b : Buffer) (off m n : Nat) :
    b.readList cap off (m + n) = b.readList cap off m ++ b.readList cap (off + m) n := by
  induction m generalizing off with
  | zero => simp [Buffer.readList]
  | succ m ih =>
    rw [show m + 1 + n = (m + n) + 1 by omega]
    simp only [Buffer.readList, List.cons_append, ih]
    rw [show off + 1 + m = off + (m + 1) by omega]

/-- Equal bytes give equal ranges. -/
theorem Buffer.readList_congr {cap : Nat} {b b' : Buffer} {off n : Nat}
    (h : ∀ j, off ≤ j → j < off + n → b.read cap j = b'.read cap j) : b.readList cap off n = b'.readList cap off n := by
  induction n generalizing off with
  | zero => rfl
  | succ n ih =>
    simp only [Buffer.readList]
    rw [h off (by omega) (by omega), ih fun j h₁ h₂ => h j (by omega) (by omega)]

/-- Reading back a list just written within the capacity. -/
theorem Buffer.readList_writeList {cap : Nat} {b : Buffer} {off : Nat} {l : List Byte} (h : off + l.length ≤ cap) :
    (b.writeList cap off l).readList cap off l.length = l := by
  apply List.ext_getElem
  · simp
  · intro k h₁ h₂
    rw [Buffer.readList_getElem, Buffer.read_writeList_inside h₂ (by omega)]

/-- A range that a list write does not touch. -/
theorem Buffer.readList_writeList_outside {cap : Nat} {b : Buffer} {off o n : Nat} {l : List Byte}
    (h : o + n ≤ off ∨ off + l.length ≤ o) : (b.writeList cap off l).readList cap o n = b.readList cap o n :=
  Buffer.readList_congr fun j h₁ h₂ => Buffer.read_writeList_outside (by omega)

/-! ### The reset memory -/

@[simp] theorem Buffer.unspecified_cells (d : Nat) : (Buffer.unspecified d).cells = [] := rfl

theorem State.reset_memory_wf :
    Memory.wf State.reset.msgBuf.cells = true ∧ Memory.wf State.reset.contBuf.cells = true := ⟨rfl, rfl⟩

end Sys2Proof.Machine
end

