-- ==== Sys2Proof/Laws/Ops.lean ====
section
/-! SUPPORT. What the shared operations can do: stages and completion (R206), `require` (R203), acceptance (R205), CMD and STATUS writes (R204, R211). -/

namespace Sys2Proof.Machine

/-! ### Stages -/

@[simp] theorem Stage.andThen_ok (s : State) (f : State → Stage) : (Stage.ok s).andThen f = f s := rfl
@[simp] theorem Stage.andThen_err (s : State) (e : CmdError) (f : State → Stage) :
    (Stage.err s e).andThen f = .err s e := rfl
@[simp] theorem Stage.onError_ok (f : State → State) (s : State) : (Stage.ok s).onError f = .ok s := rfl
@[simp] theorem Stage.onError_err (f : State → State) (s : State) (e : CmdError) :
    (Stage.err s e).onError f = .err (f s) e := rfl
@[simp] theorem Stage.complete_ok (s : State) : (Stage.ok s).complete = s.succeed := rfl
@[simp] theorem Stage.complete_err (s : State) (e : CmdError) : (Stage.err s e).complete = s.fail e := rfl

/-- The state a stage leaves, before the completion step's own effects. -/
def Stage.state : Stage → State
  | .ok s    => s
  | .err s _ => s

@[simp] theorem Stage.state_ok (s : State) : (Stage.ok s).state = s := rfl
@[simp] theorem Stage.state_err (s : State) (e : CmdError) : (Stage.err s e).state = s := rfl

/-- A property of states that the first stage's outcome has and the second stage keeps holds after both. -/
theorem Stage.andThen_state {P : State → Prop} {r : Stage} {f : State → Stage} (hr : P r.state)
    (hf : ∀ s, P s → P (f s).state) : P (r.andThen f).state := by
  cases r with
  | ok s    => exact hf s hr
  | err s e => exact hr

theorem Stage.onError_state {P : State → Prop} {r : Stage} {f : State → State} (hr : P r.state)
    (hf : ∀ s, P s → P (f s)) : P (r.onError f).state := by
  cases r with
  | ok s    => exact hr
  | err s e => exact hf s hr

/-- What completion can change (R206): everything else is as the stage left it. -/
theorem Stage.complete_cases (r : Stage) :
    (∃ s, r = .ok s ∧ r.complete = s.succeed) ∨ (∃ s e, r = .err s e ∧ r.complete = s.fail e) := by
  cases r with
  | ok s    => exact .inl ⟨s, rfl, rfl⟩
  | err s e => exact .inr ⟨s, e, rfl, rfl⟩

/-! ### `require` -/

/-- `require` runs the stage or fails with NOT_READY and no effect (R203). -/
theorem require_cases (mask : Word) (stage : State → Stage) (s : State) :
    (s.valid.missing mask = 0 ∧ require mask stage s = stage s) ∨
    (s.valid.missing mask ≠ 0 ∧
      require mask stage s = .err s { code := .notReady, info := s.valid.missing mask }) := by
  by_cases h : s.valid.missing mask = 0
  · exact .inl ⟨h, if_pos h⟩
  · exact .inr ⟨h, if_neg h⟩

theorem Valid.missing_ft (v : Valid) : v.missing 0x01 = 0 ↔ v.ftV = true := by
  rcases v with ⟨a, b, c, d, e⟩; revert a b c d e; decide
theorem Valid.missing_tree (v : Valid) : v.missing 0x02 = 0 ↔ v.treeV = true := by
  rcases v with ⟨a, b, c, d, e⟩; revert a b c d e; decide
theorem Valid.missing_ct (v : Valid) : v.missing 0x04 = 0 ↔ v.ctV = true := by
  rcases v with ⟨a, b, c, d, e⟩; revert a b c d e; decide
theorem Valid.missing_enc (v : Valid) : v.missing 0x08 = 0 ↔ v.encV = true := by
  rcases v with ⟨a, b, c, d, e⟩; revert a b c d e; decide
theorem Valid.missing_tree_hdr (v : Valid) : v.missing 0x12 = 0 ↔ v.treeV = true ∧ v.hdrV = true := by
  rcases v with ⟨a, b, c, d, e⟩; revert a b c d e; decide

theorem require_ok {mask : Word} {stage : State → Stage} {s : State} (h : s.valid.missing mask = 0) :
    require mask stage s = stage s := if_pos h

/-! ### STATUS, acceptance, CMD writes -/

@[simp] theorem State.busy_idle {s : State} (h : s.engine = .idle) : s.busy = false := by simp [State.busy, h]
@[simp] theorem State.busy_busy {s : State} {c : Byte} (h : s.engine = .busy c) : s.busy = true := by
  simp [State.busy, h]
theorem State.busy_iff (s : State) : s.busy = true ↔ ∃ c, s.engine = .busy c := by
  cases h : s.engine <;> simp [State.busy, h]

/-- The decoder's two answers for a code (R95, R97). -/
theorem decodeOpc_cases (c : Byte) :
    (legalCode c = true ∧ ∃ i, decodeOpc c = .ok i ∧ opcode i = c) ∨
    (legalCode c = false ∧ decodeOpc c = .error (.illegalCode c)) := by
  cases h : opcRows.find? (fun r => r.opc == c) with
  | some r =>
    refine .inl ?_
    have hm := List.mem_of_find?_eq_some h
    have hc : r.opc = c := by simpa using List.find?_some h
    have hd : decodeOpc c = .ok r.instr := by simp [decodeOpc, h]
    subst hc
    have : ∀ r ∈ opcRows, legalCode r.opc = true ∧ opcode r.instr = r.opc := by decide
    exact ⟨(this r hm).1, r.instr, hd, (this r hm).2⟩
  | none =>
    refine .inr ⟨?_, by simp [decodeOpc, h]⟩
    have : ∀ c : Byte, legalCode c = true → (opcRows.find? (fun r => r.opc == c)).isSome = true := by decide +kernel
    cases hl : legalCode c with
    | false => rfl
    | true => have := this c hl; simp [h] at this

/-- Acceptance (R205): a legal code starts its command; an illegal one completes at once. -/
theorem State.accept_cases (s : State) (v : Word) :
    (legalCode (opcOf v) = true ∧ s.accept v = (s.clearStatus (opcOf v)).setEngine (.busy (opcOf v))) ∨
    (legalCode (opcOf v) = false ∧
      s.accept v = (s.clearStatus (opcOf v)).fail { code := .illegalCmd, info := (opcOf v).setWidth 32 }) := by
  rcases decodeOpc_cases (opcOf v) with ⟨hl, i, hd, -⟩ | ⟨hl, hd⟩
  · exact .inl ⟨hl, by simp [State.accept, hd]⟩
  · exact .inr ⟨hl, by simp [State.accept, hd]⟩

/-- A CMD write: acceptance while IDLE, only REJ while BUSY (R204, R205). -/
theorem State.writeCmd_cases (s : State) (v : Word) :
    (s.engine = .idle ∧ s.writeCmd v = s.accept v) ∨ (∃ c, s.engine = .busy c ∧ s.writeCmd v = s.setRej true) := by
  cases h : s.engine with
  | idle   => exact .inl ⟨rfl, by simp [State.writeCmd, h]⟩
  | busy c => exact .inr ⟨c, rfl, by simp [State.writeCmd, h]⟩

end Sys2Proof.Machine
end

