-- ==== Sys2Proof/Laws/Operands.lean ====
section
/-! SUPPORT. What the operand forms give: tables stored and read back, byte orders, packing and unpacking. -/

namespace Sys2Proof.Machine

/-! ### Arrays with a list laid over them -/

theorem overlay_toList {α : Type} {n : Nat} (l : List α) (v : Vector α n) (h : l.length ≤ n) :
    (overlay l v).toList = l ++ v.toList.drop l.length := by
  simp only [overlay, Vector.toList]
  rw [List.take_of_length_le]
  simp; omega

theorem overlay_take {α : Type} {n : Nat} (l : List α) (v : Vector α n) (h : l.length ≤ n) :
    (overlay l v).toList.take l.length = l := by
  rw [overlay_toList l v h, List.take_left']
  rfl

theorem overlay_getElem {α : Type} {n : Nat} (l : List α) (v : Vector α n) (h : l.length ≤ n) (i : Nat) (hi : i < n) :
    (overlay l v)[i] = if hl : i < l.length then l[i] else v[i] := by
  have : (overlay l v)[i] = (overlay l v).toList[i]'(by simpa using hi) := by simp
  rw [this]
  simp only [overlay_toList l v h, List.getElem_append]
  split
  · rfl
  · simp [Nat.add_sub_cancel' (Nat.le_of_not_lt ‹_›)]

/-! ### The frequency table -/

/-- FT_N entries are read (R40). -/
theorem Tables.ft_length (t : Tables) : t.ft.length = t.ftN.val := by
  have := t.ftN.isLt
  simp [Tables.ft]; omega

theorem Tables.ft_length_le (t : Tables) : t.ft.length ≤ 256 := by
  have := t.ftN.isLt
  rw [Tables.ft_length]; omega

theorem Tables.setFt_ftN (t : Tables) (l : FreqTable) (hn : l.length ≤ 256) : (t.setFt l).ftN.val = l.length := by
  simp [Tables.setFt, Fin.ofNat]; omega

/-- A table stored is the table read back, when it fits its fields (R40). -/
theorem Tables.ft_setFt (t : Tables) (l : FreqTable) (hn : l.length ≤ 256) (hc : ∀ e ∈ l, e.2 < 2 ^ 17) :
    (t.setFt l).ft = l := by
  have h₁ : (Fin.ofNat 257 l.length).val = l.length := by simp [Fin.ofNat]; omega
  have hm : (l.map Prod.fst).length ≤ 256 := by simpa
  have hm' : (l.map fun e => BitVec.ofNat 17 e.2).length ≤ 256 := by simpa
  apply List.ext_getElem
  · rw [Tables.ft_length, Tables.setFt_ftN t l hn]
  · intro k hk hk'
    simp only [Tables.ft, Tables.setFt, h₁, List.getElem_take, List.getElem_zip, List.getElem_map,
      overlay_toList _ _ hm, overlay_toList _ _ hm']
    rw [List.getElem_append_left (by simpa using hk'), List.getElem_append_left (by simpa using hk')]
    have := hc l[k] (List.getElem_mem _)
    ext
    · simp
    · simp only [List.getElem_map, BitVec.toNat_ofNat]
      omega

/-- Distinct symbols: at most 256 entries (R8). -/
theorem length_le_of_nodup_syms {l : FreqTable} (h : (l.map Prod.fst).Nodup) : l.length ≤ 256 := by
  have h' : ((l.map Prod.fst).map BitVec.toFin).Nodup := h.map fun a b hab => BitVec.eq_of_toFin_eq hab
  have := h'.length_le_card
  rwa [List.length_map, List.length_map, Fintype.card_fin] at this

/-! ### Byte orders -/

theorem ofBe16_be16 (n : Nat) (h : n < 65536) :
    ofBe16 (BitVec.ofNat 8 (n / 256)) (BitVec.ofNat 8 n) = n := by
  simp only [ofBe16, BitVec.toNat_ofNat]; omega

theorem ofBe32_be32 (n : Nat) (h : n < 4294967296) :
    ofBe32 (BitVec.ofNat 8 (n / 16777216)) (BitVec.ofNat 8 (n / 65536)) (BitVec.ofNat 8 (n / 256)) (BitVec.ofNat 8 n)
      = n := by
  simp only [ofBe32, BitVec.toNat_ofNat]; omega

/-! ### Packing -/

theorem padOf_lt (n : Nat) : padOf n < 8 := by unfold padOf; omega

theorem padOf_ceil8 (n : Nat) : n + padOf n = 8 * ceil8 n := by unfold padOf ceil8; omega

/-- A byte made of eight bits unpacks to them (R107). -/
theorem bitsOfByte_ofBits (b0 b1 b2 b3 b4 b5 b6 b7 : Bool) :
    bitsOfByte (BitVec.ofNat 8 (bitsToNat [b0, b1, b2, b3, b4, b5, b6, b7])) = [b0, b1, b2, b3, b4, b5, b6, b7] := by
  revert b0 b1 b2 b3 b4 b5 b6 b7; decide

@[simp] theorem bitsOfByte_length (b : Byte) : (bitsOfByte b).length = 8 := rfl

/-- Grouping whole bytes loses no bit. -/
theorem flatMap_bytesOfBits (n : Nat) : ∀ p : Bits, p.length = 8 * n → (bytesOfBits p).flatMap bitsOfByte = p := by
  induction n with
  | zero => intro p hp; cases p with
    | nil => rfl
    | cons b p => simp at hp
  | succ n ih =>
    intro p hp
    match p, hp with
    | b0 :: b1 :: b2 :: b3 :: b4 :: b5 :: b6 :: b7 :: rest, hp =>
      simp only [bytesOfBits, List.flatMap_cons, bitsOfByte_ofBits]
      rw [ih rest (by simp at hp; omega)]
      rfl

theorem bytesOfBits_length (n : Nat) : ∀ p : Bits, p.length = 8 * n → (bytesOfBits p).length = n := by
  induction n with
  | zero => intro p hp; cases p with
    | nil => rfl
    | cons b p => simp at hp
  | succ n ih =>
    intro p hp
    match p, hp with
    | b0 :: b1 :: b2 :: b3 :: b4 :: b5 :: b6 :: b7 :: rest, hp =>
      simp only [bytesOfBits, List.length_cons]
      rw [ih rest (by simp at hp; omega)]

/-- R161: len(bytes) = ceil8(len(bits)). -/
theorem pack_length (bits : Bits) : (pack bits).1.length = ceil8 bits.length := by
  simp only [pack]
  exact bytesOfBits_length _ _ (by rw [List.length_append, List.length_replicate, padOf_ceil8])

end Sys2Proof.Machine
end

