-- ==== Sys2Proof/Laws/Counter.lean ====
section
/-! SUPPORT. What the frequency counter computes (40_frequency_counter.md rules R130, R131). -/

namespace Sys2Proof.Machine

theorem countOf_bump (m x : Byte) (t : FreqTable) :
    countOf x (bump m t) = countOf x t + if m = x then 1 else 0 := by
  induction t with
  | nil => by_cases h : m = x <;> simp [bump, countOf, h]
  | cons e t ih =>
    obtain ⟨y, n⟩ := e
    by_cases hy : y = m
    · subst hy
      by_cases hx : y = x <;> simp [bump, countOf, hx]
    · by_cases hx : y = x
      · have : m ≠ x := fun h => hy (by rw [hx, h])
        subst hx
        simp [bump, countOf, hy, this]
      · simp [bump, countOf, hy, hx, ih]

/-- One more occurrence adds the symbol at the end where it is new, and keeps the order (R130). -/
theorem bump_syms (m : Byte) (t : FreqTable) :
    (bump m t).map Prod.fst = if m ∈ t.map Prod.fst then t.map Prod.fst else t.map Prod.fst ++ [m] := by
  induction t with
  | nil => simp [bump]
  | cons e t ih =>
    obtain ⟨y, n⟩ := e
    by_cases hy : y = m
    · simp [bump, hy]
    · have hm : m ≠ y := fun h => hy h.symm
      simp only [bump, if_neg hy, List.map_cons, ih, List.mem_cons, hm, false_or]
      split <;> simp

theorem bump_nodup {m : Byte} {t : FreqTable} (h : (t.map Prod.fst).Nodup) : ((bump m t).map Prod.fst).Nodup := by
  rw [bump_syms]
  split
  · exact h
  · rename_i hm
    exact List.nodup_append.mpr ⟨h, List.nodup_singleton m, by
      intro a ha b hb; simp at hb; subst hb; exact fun hab => hm (hab ▸ ha)⟩

theorem countOf_eq_of_mem {t : FreqTable} (h : (t.map Prod.fst).Nodup) {e : Byte × Nat} (he : e ∈ t) :
    countOf e.1 t = e.2 := by
  induction t with
  | nil => simp at he
  | cons x t ih =>
    obtain ⟨y, n⟩ := x
    simp only [List.map_cons, List.nodup_cons] at h
    rcases List.mem_cons.mp he with rfl | he
    · simp [countOf]
    · have : y ≠ e.1 := fun hy => h.1 (hy ▸ List.mem_map_of_mem he)
      simp [countOf, this, ih h.2 he]

/-- The table so far, counted on. -/
theorem foldl_bump_count (l : List Byte) (t : FreqTable) (x : Byte) :
    countOf x (l.foldl (fun t m => bump m t) t) = countOf x t + l.count x := by
  induction l generalizing t with
  | nil => simp
  | cons m l ih =>
    rw [List.foldl_cons, ih, countOf_bump, List.count_cons]
    by_cases h : m = x <;> simp [h]
    omega

/-- R130: each count is the number of occurrences. -/
theorem countOf_countFrequencies (l : List Byte) (x : Byte) : countOf x (countFrequencies l) = l.count x := by
  simp [countFrequencies, foldl_bump_count, countOf]

theorem foldl_bump_nodup (l : List Byte) (t : FreqTable) (h : (t.map Prod.fst).Nodup) :
    ((l.foldl (fun t m => bump m t) t).map Prod.fst).Nodup := by
  induction l generalizing t with
  | nil => exact h
  | cons m l ih => exact ih _ (bump_nodup h)

/-- R130: one pair for each distinct byte. -/
theorem countFrequencies_nodup (l : List Byte) : ((countFrequencies l).map Prod.fst).Nodup :=
  foldl_bump_nodup l [] (by simp)

/-- COUNT's loop succeeds exactly where no check fails, and then it counts (R131). -/
theorem countLoop_ok {sym8 : Bool} {l : List Byte} {i : Nat} {t t' : FreqTable}
    (h : countLoop sym8 l i t = .ok t') :
    t' = l.foldl (fun t m => bump m t) t ∧ ∀ m ∈ l, tooWide sym8 m = false := by
  induction l generalizing i t with
  | nil => cases h; exact ⟨rfl, by simp⟩
  | cons m l ih =>
    simp only [countLoop] at h
    split at h
    · cases h
    · split at h
      · cases h
      · have := ih h
        simp_all

/-- Where no byte is too wide and no count reaches 65536, the loop counts the message. -/
theorem countLoop_of_bounds {sym8 : Bool} {l : List Byte} {i : Nat} {t : FreqTable}
    (hw : ∀ m ∈ l, tooWide sym8 m = false) (hc : ∀ m, countOf m t + l.count m ≤ 65535) :
    countLoop sym8 l i t = .ok (l.foldl (fun t m => bump m t) t) := by
  induction l generalizing i t with
  | nil => rfl
  | cons m l ih =>
    have hb : countOf m (bump m t) ≠ 65536 := by
      have := hc m
      rw [List.count_cons_self] at this
      rw [countOf_bump, if_pos rfl]; omega
    simp only [countLoop, hw m (by simp), Bool.false_eq_true, if_false, if_neg hb, List.foldl_cons]
    refine ih (fun x hx => hw x (by simp [hx])) fun x => ?_
    have := hc x
    rw [List.count_cons] at this
    rw [countOf_bump]
    by_cases h : m = x <;> simp [h] at this ⊢ <;> omega

/-- A success counts each symbol at most 65535 times. -/
theorem countLoop_bound {sym8 : Bool} {l : List Byte} {i : Nat} {t t' : FreqTable}
    (h : countLoop sym8 l i t = .ok t') (hc : ∀ m, countOf m t ≤ 65535) (x : Byte) : countOf x t' ≤ 65535 := by
  induction l generalizing i t with
  | nil => simp [countLoop] at h; exact h ▸ hc x
  | cons m l ih =>
    simp only [countLoop] at h
    split at h
    · cases h
    · split at h
      · cases h
      · rename_i hb
        refine ih h fun y => ?_
        by_cases hy : m = y
        · subst hy
          have := hc m
          rw [countOf_bump, if_pos rfl] at hb ⊢; omega
        · rw [countOf_bump, if_neg hy]; exact hc y

theorem countOf_pos_of_mem_bump {m : Byte} {t : FreqTable} (h : ∀ e ∈ t, 1 ≤ e.2) : ∀ e ∈ bump m t, 1 ≤ e.2 := by
  induction t with
  | nil => simp [bump]
  | cons x t ih =>
    obtain ⟨y, n⟩ := x
    simp only [bump]
    split
    · intro e he
      rcases List.mem_cons.mp he with rfl | he
      · simp
      · exact h e (by simp [he])
    · intro e he
      rcases List.mem_cons.mp he with rfl | he
      · exact h _ (by simp)
      · exact ih (fun e he => h e (by simp [he])) e he

/-- Every count is at least 1 (R40). -/
theorem countFrequencies_pos (l : List Byte) : ∀ e ∈ countFrequencies l, 1 ≤ e.2 := by
  have : ∀ t : FreqTable, (∀ e ∈ t, 1 ≤ e.2) → ∀ e ∈ l.foldl (fun t m => bump m t) t, 1 ≤ e.2 := by
    induction l with
    | nil => exact fun t h => h
    | cons m l ih => exact fun t h => ih _ (countOf_pos_of_mem_bump h)
  exact this [] (by simp)

/-- COUNT's three outcomes (R131). -/
theorem stageCount_cases (s : State) :
    (s.caps.msgCap < s.msgLen.toNat ∧ stageCount s = loseTablesWith s { code := .badLength, info := s.msgLen }) ∨
    (s.msgLen.toNat ≤ s.caps.msgCap ∧ ∃ e, countLoop s.sym8 s.message 0 [] = .error e ∧
      stageCount s = loseTablesWith s e) ∨
    (s.msgLen.toNat ≤ s.caps.msgCap ∧ countLoop s.sym8 s.message 0 [] = .ok (countFrequencies s.message) ∧
      stageCount s = .ok ((s.setTables (s.tables.setFt (countFrequencies s.message))).setValid Valid.afterCount)) := by
  by_cases h : s.caps.msgCap < s.msgLen.toNat
  · exact .inl ⟨h, by simp [stageCount, h]⟩
  · have h' := Nat.le_of_not_lt h
    cases hc : countLoop s.sym8 s.message 0 [] with
    | error e => exact .inr (.inl ⟨h', e, rfl, by simp [stageCount, h, hc]⟩)
    | ok t =>
      have : t = countFrequencies s.message := (countLoop_ok hc).1
      subst this
      exact .inr (.inr ⟨h', rfl, by simp [stageCount, h, hc]⟩)

/-- READ_HDR's three outcomes (R172). -/
theorem stageReadHdr_cases (s : State) :
    (s.caps.contCap < s.contLen.toNat ∧ stageReadHdr s = loseTablesWith s { code := .badLength, info := s.contLen }) ∨
    (s.contLen.toNat ≤ s.caps.contCap ∧ ∃ e, parseHeader s.sym8 s.contRead s.contLen.toNat = .error e ∧
      stageReadHdr s = loseTablesWith s e) ∨
    (s.contLen.toNat ≤ s.caps.contCap ∧ ∃ h, parseHeader s.sym8 s.contRead s.contLen.toNat = .ok h ∧
      stageReadHdr s = .ok ((s.setTables (s.tables.setHeader h s.contLen.toNat)).setValid Valid.afterReadHdr)) := by
  by_cases h : s.caps.contCap < s.contLen.toNat
  · exact .inl ⟨h, by simp [stageReadHdr, h]⟩
  · have h' := Nat.le_of_not_lt h
    cases hc : parseHeader s.sym8 s.contRead s.contLen.toNat with
    | error e => exact .inr (.inl ⟨h', e, rfl, by simp [stageReadHdr, h, hc]⟩)
    | ok t => exact .inr (.inr ⟨h', t, rfl, by simp [stageReadHdr, h, hc]⟩)

end Sys2Proof.Machine
end

