-- ==== Sys2Proof/Laws/PerInstr.lean ====
section
/-! SUPPORT. The family Encoding (LAWS.json): every command is well formed, has a legal code, and its CMD word, whatever stands in bits 31:8, decodes to it (30_encoding.md rules R90, R95–R97). -/

namespace Sys2Proof.Laws.Encoding

/-- A command's code is legal, and a word decodes to the command exactly where its low byte is that code. -/
def Statement (i : Instr) : Prop :=
  i.wf = true ∧ legalCode (opcode i) = true ∧ decodeOpc (opcode i) = .ok i
    ∧ decodeBytes (encodeBytes i) = .ok (i, []) ∧ ∀ w : Word, opcOf w = opcode i → decodeWord w = .ok i

theorem of_code {i : Instr} (hw : i.wf = true) (hl : legalCode (opcode i) = true) (hd : decodeOpc (opcode i) = .ok i)
    (hb : decodeBytes (encodeBytes i) = .ok (i, [])) : Statement i :=
  ⟨hw, hl, hd, hb, fun w h => by rw [decodeWord, h, hd]⟩

theorem nop : Statement .nop := of_code rfl rfl rfl rfl
theorem count : Statement .count := of_code rfl rfl rfl rfl
theorem build : Statement .build := of_code rfl rfl rfl rfl
theorem gen : Statement .gen := of_code rfl rfl rfl rfl
theorem encode : Statement .encode := of_code rfl rfl rfl rfl
theorem writeHdr : Statement .writeHdr := of_code rfl rfl rfl rfl
theorem readHdr : Statement .readHdr := of_code rfl rfl rfl rfl
theorem decode : Statement .decode := of_code rfl rfl rfl rfl
theorem compress : Statement .compress := of_code rfl rfl rfl rfl
theorem decompress : Statement .decompress := of_code rfl rfl rfl rfl
theorem inspect : Statement .inspect := of_code rfl rfl rfl rfl

end Sys2Proof.Laws.Encoding
end

