-- ==== Sys2Proof/Laws/Stages.lean ====
section
/-! SUPPORT. The commands as stages, what each stage can do, and what `exec` answers. -/

namespace Sys2Proof.Machine

/-- The stage a command runs. -/
def stageOf : Instr → State → Stage
  | .nop        => stageNop
  | .count      => stageCount
  | .build      => stageBuild
  | .gen        => stageGen
  | .encode     => stageEncode
  | .writeHdr   => stageWriteHdr
  | .readHdr    => stageReadHdr
  | .decode     => stageDecode
  | .compress   => stageCompress
  | .decompress => stageDecompress
  | .inspect    => stageInspect

/-- A command completes: its meaning answers its stage's completion (R206). -/
theorem exec_eq (i : Instr) (s : State) : exec i s = .next (stageOf i s).complete := by cases i <;> rfl

/-! ### The tree builder -/

/-- The builder's loop adds one node an iteration while two are left (R140). -/
theorem mergeLoop_length (fuel : Nat) (arena : List Node) (w : List Nat) (h : fuel < w.length) :
    (mergeLoop fuel arena w).1.length = arena.length + fuel ∧ (mergeLoop fuel arena w).2.length = w.length - fuel := by
  induction fuel generalizing arena w with
  | zero => simp [mergeLoop]
  | succ fuel ih =>
    have hl : (sortWork arena w).length = w.length := by simp [sortWork]
    simp only [mergeLoop]
    match hs : sortWork arena w with
    | a :: b :: rest =>
      rw [hs] at hl
      simp only [List.length_cons] at hl
      have := ih (arena ++ [.internal (BitVec.ofNat 32 (freqOf arena a + freqOf arena b)) (BitVec.ofNat 9 a)
        (BitVec.ofNat 9 b)]) (rest ++ [arena.length]) (by simp; omega)
      simp only [List.length_append, List.length_singleton] at this
      simp only []
      omega
    | [] => rw [hs] at hl; simp at hl; omega
    | [a] => rw [hs] at hl; simp at hl; omega

/-- R140, R141: the arena of a table of N entries has 2N − 1 nodes. -/
theorem buildTree_length (ft : FreqTable) : (buildTree ft).1.length = 2 * ft.length - 1 := by
  cases ft with
  | nil => rfl
  | cons e ft =>
    have := (mergeLoop_length ((e :: ft).length - 1) (leavesOf (e :: ft)) (List.range (e :: ft).length) (by simp)).1
    rw [show (leavesOf (e :: ft)).length = (e :: ft).length by simp [leavesOf]] at this
    simp only [buildTree]
    split <;> rename_i h <;> rw [h] at this <;> simp only [List.length_cons] at this ⊢ <;> omega

theorem buildTree_empty : buildTree [] = ([], noneIndex) := rfl

theorem buildTree_length_le (t : Tables) : (buildTree t.ft).1.length ≤ 511 := by
  have := Tables.ft_length_le t
  rw [buildTree_length]; omega

/-- A stored tree reads back (R41, R141). -/
theorem Tables.setTree_arena (t : Tables) (tree : List Node × BitVec 9) (h : tree.1.length ≤ 511) :
    (t.setTree tree).nodes.toList.take (t.setTree tree).nodeCnt.val = tree.1 := by
  have hc : (Fin.ofNat 512 tree.1.length).val = tree.1.length := by simp [Fin.ofNat]; omega
  simp only [Tables.setTree, hc]
  exact overlay_take tree.1 t.nodes h

@[simp] theorem Tables.setTree_root (t : Tables) (tree : List Node × BitVec 9) : (t.setTree tree).root = tree.2 := rfl
@[simp] theorem Tables.setTree_ft (t : Tables) (tree : List Node × BitVec 9) : (t.setTree tree).ft = t.ft := rfl
@[simp] theorem Tables.setTree_ftN (t : Tables) (tree : List Node × BitVec 9) : (t.setTree tree).ftN = t.ftN := rfl

/-! ### Stages with a `require` -/

theorem stageBuild_cases (s : State) :
    (s.valid.ftV = true ∧ stageBuild s = buildBody s) ∨
    (s.valid.ftV = false ∧ stageBuild s = .err s { code := .notReady, info := s.valid.missing 0x01 }) := by
  rcases require_cases 0x01 buildBody s with ⟨h, hr⟩ | ⟨h, hr⟩
  · exact .inl ⟨(Valid.missing_ft _).mp h, hr⟩
  · exact .inr ⟨Bool.eq_false_iff.mpr fun hc => h ((Valid.missing_ft _).mpr hc), hr⟩

theorem stageGen_cases (s : State) :
    (s.valid.treeV = true ∧ stageGen s = genBody s) ∨
    (s.valid.treeV = false ∧ stageGen s = .err s { code := .notReady, info := s.valid.missing 0x02 }) := by
  rcases require_cases 0x02 genBody s with ⟨h, hr⟩ | ⟨h, hr⟩
  · exact .inl ⟨(Valid.missing_tree _).mp h, hr⟩
  · exact .inr ⟨Bool.eq_false_iff.mpr fun hc => h ((Valid.missing_tree _).mpr hc), hr⟩

theorem stageEncode_cases (s : State) :
    (s.valid.ctV = true ∧ stageEncode s = encodeBody s) ∨
    (s.valid.ctV = false ∧ stageEncode s = .err s { code := .notReady, info := s.valid.missing 0x04 }) := by
  rcases require_cases 0x04 encodeBody s with ⟨h, hr⟩ | ⟨h, hr⟩
  · exact .inl ⟨(Valid.missing_ct _).mp h, hr⟩
  · exact .inr ⟨Bool.eq_false_iff.mpr fun hc => h ((Valid.missing_ct _).mpr hc), hr⟩

theorem stageWriteHdr_cases (s : State) :
    (s.valid.encV = true ∧ stageWriteHdr s = writeHdrBody s) ∨
    (s.valid.encV = false ∧ stageWriteHdr s = .err s { code := .notReady, info := s.valid.missing 0x08 }) := by
  rcases require_cases 0x08 writeHdrBody s with ⟨h, hr⟩ | ⟨h, hr⟩
  · exact .inl ⟨(Valid.missing_enc _).mp h, hr⟩
  · exact .inr ⟨Bool.eq_false_iff.mpr fun hc => h ((Valid.missing_enc _).mpr hc), hr⟩

theorem stageDecode_cases (s : State) :
    (s.valid.treeV = true ∧ s.valid.hdrV = true ∧ stageDecode s = decodeBody s) ∨
    (¬(s.valid.treeV = true ∧ s.valid.hdrV = true) ∧
      stageDecode s = .err s { code := .notReady, info := s.valid.missing 0x12 }) := by
  rcases require_cases 0x12 decodeBody s with ⟨h, hr⟩ | ⟨h, hr⟩
  · have := (Valid.missing_tree_hdr _).mp h
    exact .inl ⟨this.1, this.2, hr⟩
  · exact .inr ⟨fun hc => h ((Valid.missing_tree_hdr _).mpr hc), hr⟩

/-! ### The encoder -/

/-- ENCODE's first pass: where it succeeds, every byte has a code and the total is the encoded length (R163, R164). -/
theorem sizeLoop_ok {sym8 : Bool} {ct : Vector (Option Bits) 256} {l : List Byte} {i n total : Nat}
    (h : sizeLoop sym8 ct l i n = .ok total) :
    total = n + (encodeBits ct l).length ∧ ∀ m ∈ l, tooWide sym8 m = false ∧ (ctAt ct m).isSome = true := by
  induction l generalizing i n with
  | nil => cases h; exact ⟨rfl, by simp⟩
  | cons m l ih =>
    simp only [sizeLoop] at h
    split at h
    · cases h
    · split at h
      · cases h
      · rename_i hw _ c hc
        obtain ⟨ht, hm⟩ := ih h
        refine ⟨?_, ?_⟩
        · simp only [encodeBits, List.flatMap_cons, hc, List.length_append, Option.getD_some] at ht ⊢
          omega
        · intro x hx
          rcases List.mem_cons.mp hx with rfl | hx
          · exact ⟨Bool.eq_false_iff.mpr hw, by simp [hc]⟩
          · exact hm x hx

/-- The converse: where every byte has a code, the first pass succeeds. -/
theorem sizeLoop_of_codes {sym8 : Bool} {ct : Vector (Option Bits) 256} {l : List Byte} {i n : Nat}
    (h : ∀ m ∈ l, tooWide sym8 m = false ∧ (ctAt ct m).isSome = true) :
    sizeLoop sym8 ct l i n = .ok (n + (encodeBits ct l).length) := by
  induction l generalizing i n with
  | nil => simp [sizeLoop, encodeBits]
  | cons m l ih =>
    obtain ⟨hw, hc⟩ := h m (by simp)
    obtain ⟨c, hc⟩ := Option.isSome_iff_exists.mp hc
    simp only [sizeLoop, hw, Bool.false_eq_true, if_false, hc]
    rw [ih fun x hx => h x (by simp [hx])]
    simp only [encodeBits, List.flatMap_cons, hc, List.length_append, Option.getD_some]
    congr 1; omega

/-- ENCODE past its `require` (R163): a failure that only clears ENC_V, or pass 2. -/
theorem encodeBody_cases (s : State) :
    (∃ e, encodeBody s = encodeFails s e) ∨
    (s.msgLen.toNat ≤ s.caps.msgCap ∧ (∀ m ∈ s.message, tooWide s.sym8 m = false ∧ (ctAt s.tables.ct m).isSome = true)
      ∧ headerLen s.tables.ftN.val + ceil8 (encodeBits s.tables.ct s.message).length ≤ s.caps.contCap
      ∧ encodeBody s = encodeWrite s (encodeBits s.tables.ct s.message).length) := by
  unfold encodeBody
  split
  · exact .inl ⟨_, rfl⟩
  · rename_i hl
    cases h : sizeLoop s.sym8 s.tables.ct s.message 0 0 with
    | error e => exact .inl ⟨e, rfl⟩
    | ok total =>
      obtain ⟨ht, hm⟩ := sizeLoop_ok h
      rw [Nat.zero_add] at ht
      subst ht
      simp only []
      split
      · exact .inl ⟨_, rfl⟩
      · rename_i hc
        exact .inr ⟨Nat.le_of_not_lt hl, hm, Nat.le_of_not_lt hc, rfl⟩

/-- DECODE past its `require` (R183): the decoded message is written, or the failure effects happen. -/
theorem decodeBody_cases (s : State) :
    (∃ out, decodeMessage s.caps.msgCap s.tables (unpack s.payload s.tables.pad.toNat) = .ok out ∧
      decodeBody s = .ok ((s.msgWrite 0 out).setMsgLen (BitVec.ofNat 32 out.length))) ∨
    (∃ e, decodeMessage s.caps.msgCap s.tables (unpack s.payload s.tables.pad.toNat) = .error e ∧
      decodeBody s = decodeFails s e) := by
  cases h : decodeMessage s.caps.msgCap s.tables (unpack s.payload s.tables.pad.toNat) with
  | ok out  => exact .inl ⟨out, rfl, by simp [decodeBody, h]⟩
  | error e => exact .inr ⟨e, rfl, by simp [decodeBody, h]⟩

/-! ### The container header -/

@[simp] theorem be16_length (n : Nat) : (be16 n).length = 2 := rfl
@[simp] theorem be32_length (n : Nat) : (be32 n).length = 4 := rfl

theorem flatMap_entryBytes_length (ft : FreqTable) : (ft.flatMap entryBytes).length = 3 * ft.length := by
  induction ft with
  | nil => rfl
  | cons e ft ih => simp [entryBytes, ih]; omega

/-- R105, R170: the header is 5 + 3N bytes long. -/
theorem headerBytes_length (ft : FreqTable) (pad : Byte) : (headerBytes ft pad).length = headerLen ft.length := by
  simp only [headerBytes, headerLen, List.length_append, be32_length, flatMap_entryBytes_length, List.length_singleton]
  omega

/-- R172's loop, where it succeeds, appends exactly the entries' worth of checked pairs. -/
theorem readEntries_ok {sym8 : Bool} {get : Nat → Byte} {n off : Nat} {t t' : FreqTable}
    (h : readEntries sym8 get n off t = .ok t') (hn : (t.map Prod.fst).Nodup)
    (hv : ∀ e ∈ t, tooWide sym8 e.1 = false ∧ 1 ≤ e.2 ∧ e.2 ≤ 65535) :
    t'.length = t.length + n ∧ (t'.map Prod.fst).Nodup
      ∧ ∀ e ∈ t', tooWide sym8 e.1 = false ∧ 1 ≤ e.2 ∧ e.2 ≤ 65535 := by
  induction n generalizing off t with
  | zero => simp [readEntries] at h; subst h; exact ⟨rfl, hn, hv⟩
  | succ n ih =>
    simp only [readEntries] at h
    split at h
    · cases h
    · split at h
      · cases h
      · split at h
        · cases h
        · rename_i hw hs hf
          obtain ⟨h₁, h₂, h₃⟩ := ih h
            (by
              rw [List.map_append, List.map_singleton]
              exact List.nodup_append.mpr ⟨hn, List.nodup_singleton _, by
                intro a ha b hb; simp at hb; subst hb; exact fun hab => hs (hab ▸ ha)⟩)
            (by
              intro e he
              rcases List.mem_append.mp he with he | he
              · exact hv e he
              · simp only [List.mem_singleton] at he
                subst he
                refine ⟨by simpa using hw, Nat.one_le_iff_ne_zero.mpr hf, ?_⟩
                have h1 := (get (off + 1)).isLt
                have h2 := (get (off + 2)).isLt
                simp only [ofBe16]; omega)
          refine ⟨?_, h₂, h₃⟩
          simp at h₁; omega

end Sys2Proof.Machine
end

