-- ==== Sys2Proof/Laws/Step.lean ====
section
/-! SUPPORT. What one step and one bus access can do. -/

namespace Sys2Proof.Machine

/-- A step that answers a next state: an access, a reset, the end of a wait, or the running command's completion. -/
theorem step_cases {s t : State} (h : step s = .next t) :
    (∃ a rest, s.events = .access a :: rest ∧ t = (s.setEvents rest).busAccess a) ∨
    (∃ rest, s.events = .reset :: rest ∧ t = (s.setEvents rest).resetBlock) ∨
    (s.engine = .idle ∧ t = s.setEvents s.events.tail) ∨
    (∃ c i, s.engine = .busy c ∧ decodeOpc c = .ok i ∧ t = (stageOf i s).complete) := by
  have turn : ∀ rest, engineTurn s rest = .next t →
      (s.engine = .idle ∧ t = s.setEvents rest) ∨
      (∃ c i, s.engine = .busy c ∧ decodeOpc c = .ok i ∧ t = (stageOf i s).complete) := by
    intro rest ht
    unfold engineTurn at ht
    cases he : s.engine with
    | idle => rw [he] at ht; cases ht; exact .inl ⟨rfl, rfl⟩
    | busy c =>
      rw [he] at ht
      simp only at ht
      cases hd : decodeOpc c with
      | ok i => rw [hd] at ht; simp only [exec_eq] at ht; cases ht; exact .inr ⟨c, i, rfl, hd, rfl⟩
      | error e => rw [hd] at ht; cases ht
  unfold step at h
  split at h
  · rename_i a rest he; cases h; exact .inl ⟨a, rest, he, rfl⟩
  · rename_i rest he; cases h; exact .inr (.inl ⟨rest, he, rfl⟩)
  · cases h
  · rename_i rest he
    rcases turn rest h with ⟨hi, ht⟩ | hb
    · exact .inr (.inr (.inl ⟨hi, by simp [he, ht]⟩))
    · exact .inr (.inr (.inr hb))
  · rename_i he
    rcases turn [] h with ⟨hi, ht⟩ | hb
    · exact .inr (.inr (.inl ⟨hi, by simp [he, ht]⟩))
    · exact .inr (.inr (.inr hb))

/-- An access: an illegal one only answers; a read only answers (and may draw a free value); a write acts at its place (R67,
R68, R70, R71). -/
theorem State.busAccess_cases (s : State) (a : Access) :
    (a.legal = false ∧ s.busAccess a = s.setResponse { rdata := if a.we then none else some 0, err := true }) ∨
    (a.legal = true ∧ a.we = false ∧ ∃ w, s.busAccess a = s.setResponse { rdata := some w, err := false } ∨
      s.busAccess a = (s.setResponse { rdata := some w, err := false }).nextDraw) ∨
    (a.legal = true ∧ a.we = true ∧ ∃ n, a.bytes = some n ∧
      s.busAccess a = (s.placeWrite n a.wdata (placeOf a.addr)).setResponse { rdata := none, err := false }) := by
  cases hl : a.legal with
  | false => exact .inl ⟨rfl, by simp [State.busAccess, hl]⟩
  | true =>
    cases hb : a.bytes with
    | none => simp [Access.legal, hb] at hl
    | some n =>
      cases hw : a.we with
      | true => exact .inr (.inr ⟨rfl, rfl, n, rfl, by simp [State.busAccess, hl, hb, hw]⟩)
      | false =>
        refine .inr (.inl ⟨rfl, rfl, ?_⟩)
        simp only [State.busAccess, hl, hb, hw, Bool.false_eq_true, if_false, State.busRead]
        split
        · exact ⟨_, .inr rfl⟩
        · exact ⟨_, .inl rfl⟩

/-- What a legal write can do: CTRL, CMD, STATUS, one field or buffer while IDLE, or nothing (R71). -/
theorem State.placeWrite_cases (s : State) (n : Nat) (v : Word) (p : Place) :
    s.placeWrite n v p = s.writeCtrl v ∨ s.placeWrite n v p = s.writeCmd v ∨ s.placeWrite n v p = s.writeStatus v ∨
    s.placeWrite n v p = s ∨
    (s.busy = false ∧ (s.placeWrite n v p = s.setMsgLen v ∨ s.placeWrite n v p = s.setContLen v ∨
      s.placeWrite n v p = s.setCodeSel (v.extractLsb' 0 8) ∨
      (∃ o, s.placeWrite n v p = s.msgWrite o ((lanesOfWord v).take n)) ∨
      (∃ o, s.placeWrite n v p = s.contWrite o ((lanesOfWord v).take n)))) := by
  cases hb : s.busy
  · cases p with
    | reg r => cases r <;> simp [State.placeWrite, State.idleWrite, hb]
    | msg o => exact .inr (.inr (.inr (.inr ⟨rfl, .inr (.inr (.inr (.inl ⟨o, by simp [State.placeWrite, State.idleWrite, hb]⟩)))⟩)))
    | cont o => exact .inr (.inr (.inr (.inr ⟨rfl, .inr (.inr (.inr (.inr ⟨o, by simp [State.placeWrite, State.idleWrite, hb]⟩)))⟩)))
    | ftEntry k => simp [State.placeWrite, State.idleWrite, hb]
    | nodeFreq k => simp [State.placeWrite, State.idleWrite, hb]
    | nodeInfo k => simp [State.placeWrite, State.idleWrite, hb]
    | nothing => simp [State.placeWrite, State.idleWrite, hb]
  · cases p with
    | reg r => cases r <;> simp [State.placeWrite, hb]
    | _ => simp [State.placeWrite, hb]

@[simp] theorem State.resetBlock_caps (s : State) : s.resetBlock.caps = s.caps := rfl
@[simp] theorem State.resetBlock_events (s : State) : s.resetBlock.events = s.events := rfl
@[simp] theorem State.resetBlock_valid (s : State) : s.resetBlock.valid = Valid.clear := rfl
@[simp] theorem State.resetBlock_engine (s : State) : s.resetBlock.engine = .idle := rfl
@[simp] theorem State.resetBlock_msgCells (s : State) : s.resetBlock.msgBuf.cells = [] := rfl
@[simp] theorem State.resetBlock_contCells (s : State) : s.resetBlock.contBuf.cells = [] := rfl

end Sys2Proof.Machine
end

