-- ==== Sys2Proof/Tests/Slice0.lean ====
section
/-! SUPPORT. The model's own tests: the WellFormed smoke test, decoding of written-out words, the spec's vectors (spec/95_test_vectors.md, named V-… and P…) one step each, and a witness for the hypotheses of every statement that has some. -/

namespace Sys2Proof.Tests

open Sys2Proof Sys2Proof.Machine

/-! ### Helpers -/

/-- The state of a next outcome; the reset state for any other. -/
def nextOf : Host.Outcome State Fault Refusal → State
  | .next s => s
  | _       => State.reset

/-- The state after commands run one after the other. -/
def after (s : State) : List Instr → State
  | []      => s
  | i :: is => after (nextOf (exec i s)) is

/-- A buffer holding bytes at 0, 1, … -/
def buf (d : Nat) (l : List Byte) : Buffer := { background := d, cells := l.zipIdx.map fun p => (p.2, p.1) }

/-- Reset with a message. -/
def msgS (l : List Byte) : State := { State.reset with msgBuf := buf 0 l, msgLen := BitVec.ofNat 32 l.length }

/-- Reset with a container. -/
def contS (l : List Byte) : State := { State.reset with contBuf := buf 1 l, contLen := BitVec.ofNat 32 l.length }

/-- The same with other capacities. -/
def withCaps (m c : Nat) (s : State) : State := { s with caps := { msgCap := m, contCap := c } }

/-- One step at pending inputs. -/
def at1 (s : State) (es : List Event) : State := nextOf (step { s with events := es })

/-- A 32-bit write and read of the host. -/
def wr32 (a : BitVec 22) (v : Word) : Event := .access { addr := a, we := true, size := 2, wdata := v }
def rd32 (a : BitVec 22) : Event := .access { addr := a, we := false, size := 2, wdata := 0 }

/-- What a 4-byte read at an address returns while IDLE. -/
def see (s : State) (a : BitVec 22) : Word := s.placeRead 4 (placeOf a)

def abc : List Byte := [0x61, 0x62, 0x63]
def abra : List Byte := [0x61, 0x62, 0x72, 0x61, 0x63, 0x61, 0x64, 0x61, 0x62, 0x72, 0x61]
/-- V-S2's header and payload, and V-S1's container. -/
def abcHdr : List Byte := [0, 0, 0, 3, 0x61, 0, 1, 0x62, 0, 1, 0x63, 0, 1]
def abcCont : List Byte := abcHdr ++ [3, 0xB0]
def aaaaCont : List Byte := [0, 0, 0, 1, 0x61, 0, 4, 0]

/-! ### Well-formedness (R9, R91, R97), with an ill-formed term for each check -/

theorem test_codes_refused : ([0x08, 0x0F, 0x13, 0xFF] : List Byte).map legalCode = [false, false, false, false] := by decide
theorem test_codes_legal : ([0x00, 0x07, 0x10, 0x12] : List Byte).map legalCode = [true, true, true, true] := by decide
theorem test_caps_refused :
    [Caps.mk 0 5, Caps.mk 1048577 5, Caps.mk 1 4, Caps.mk 1 1048577].map Caps.wf = [false, false, false, false] := by decide
theorem test_caps_allowed : [Caps.mk 1 5, Caps.mk 1048576 1048576, Caps.default].map Caps.wf = [true, true, true] := by decide
theorem test_memory_refused : [[(3, 0#8), (3, 1#8)], [(4, 0#8), (3, 1#8)]].map Memory.wf = [false, false] := by decide
theorem test_chain_refused :
    ¬ Valid.chain { ftV := false, treeV := true, ctV := false, encV := false, hdrV := false } ∧
    ¬ Valid.chain { ftV := true, treeV := false, ctV := true, encV := false, hdrV := false } ∧
    ¬ Valid.chain { ftV := true, treeV := true, ctV := false, encV := true, hdrV := false } ∧
    ¬ Valid.chain { ftV := false, treeV := false, ctV := false, encV := false, hdrV := true } := by decide

/-! ### Decoding: the words of R95's table, written bit by bit -/

theorem test_word_nop : decodeWord 0b00000000000000000000000000000000#32 = .ok .nop := by decide
theorem test_word_count : decodeWord 0b00000000000000000000000000000001#32 = .ok .count := by decide
theorem test_word_build : decodeWord 0b00000000000000000000000000000010#32 = .ok .build := by decide
theorem test_word_gen : decodeWord 0b00000000000000000000000000000011#32 = .ok .gen := by decide
theorem test_word_encode : decodeWord 0b00000000000000000000000000000100#32 = .ok .encode := by decide
theorem test_word_write_hdr : decodeWord 0b00000000000000000000000000000101#32 = .ok .writeHdr := by decide
theorem test_word_read_hdr : decodeWord 0b00000000000000000000000000000110#32 = .ok .readHdr := by decide
theorem test_word_decode : decodeWord 0b00000000000000000000000000000111#32 = .ok .decode := by decide
theorem test_word_compress : decodeWord 0b00000000000000000000000000010000#32 = .ok .compress := by decide
theorem test_word_decompress : decodeWord 0b00000000000000000000000000010001#32 = .ok .decompress := by decide
theorem test_word_inspect : decodeWord 0b00000000000000000000000000010010#32 = .ok .inspect := by decide
/-- V-X2, V-X4: bits 31:8 are ignored. V-X1, V-X3: refused by name. -/
theorem test_word_high_bits :
    decodeWord 0b11111111111111111111111100000000#32 = .ok .nop ∧
    decodeWord 0b11111111111111111111111100000001#32 = .ok .count ∧
    decodeWord 0b00000000000000000000000000001000#32 = .error (.illegalCode 0x08) ∧
    decodeWord 0b00000000000000000000000000010011#32 = .error (.illegalCode 0x13) := by decide
theorem test_bytes : decodeBytes [0x12, 0xFF, 0xFF, 0xFF, 0x55] = .ok (.inspect, [0x55]) ∧
    decodeBytes [0x12, 0, 0] = .error .tooShort := by decide
theorem test_table_word : decodeTableWord 32 0x10 = some .compress ∧ decodeTableWord 8 0x07 = some .decode ∧
    decodeTableWord 32 0x08 = none := by decide

/-! ### COUNT, BUILD, GEN -/

/-- V-C1. -/
theorem test_count : let t := after (msgS abra) [.count]
    t.statusWord = 2 ∧ see t 0x18 = 1 ∧ see t 0x24 = 5 ∧
    [0x400, 0x404, 0x408, 0x40C, 0x410, 0x414].map (see t)
      = [0x80000561, 0x80000262, 0x80000272, 0x80000163, 0x80000164, 0] := by decide +kernel
/-- V-C3, V-C4. -/
theorem test_count_width : let s := msgS [0x61, 0xC3, 0xA9]
    [0x0C, 0x10, 0x14, 0x18].map (see (after s [.count])) = [6, 4, 0xC3000001, 0] ∧
    see (after { s with sym8 := true } [.count]) 0x404 = 0x800001C3 := by decide +kernel
/-- V-B2. -/
theorem test_build : let t := after (msgS abra) [.count, .build]
    [0x102C, 0x1034, 0x103C, 0x1044, 0x38, 0x3C, 0x18, 0x1048].map (see t)
      = [0x80080300, 0x80040100, 0x800C0500, 0x800E0000, 8, 9, 3, 0] := by decide +kernel
/-- V-B9: the order of equal frequencies. -/
theorem test_build_ties :
    (buildTree [(0x68, 1), (0x65, 1), (0x6C, 3), (0x6F, 2), (0x20, 1), (0x77, 1), (0x72, 1), (0x64, 1)]).1.drop 8 =
      [.internal 2 0 1, .internal 2 4 5, .internal 2 6 7, .internal 4 3 8, .internal 4 9 10, .internal 7 2 11,
        .internal 11 12 13] := by decide +kernel
/-- V-G5's f and V-G3. -/
theorem test_gen : let t := after (msgS ([0x61, 0x62, 0x62, 0x63, 0x63, 0x63] ++ List.replicate 5 0x64
      ++ List.replicate 8 0x65 ++ [0x66])) [.count, .build, .gen]
    ([0x4C, 0x50].map (see { t with codeSel := 0x66 })) = [0x80000005, 0xF8000000] ∧
    ([0x4C, 0x50].map (see { t with codeSel := 0x67 })) = [0, 0] := by decide +kernel
/-- V-G2: the present empty code of a single symbol. -/
theorem test_gen_single : let t := after (msgS [0x61, 0x61, 0x61, 0x61]) [.count, .build, .gen]
    see { t with codeSel := 0x61 } 0x4C = 0x80000000 ∧ see t 0x18 = 7 := by decide +kernel

/-! ### ENCODE, WRITE_HDR, READ_HDR -/

/-- V-E1. -/
theorem test_encode : let t := after (msgS abra) [.count, .build, .gen, .encode]
    t.contBuf.cells = [(20, 0x6E), (21, 0x8A), (22, 0xDC)] ∧ [0x28, 0x2C, 0x18].map (see t) = [1, 23, 0x0F] := by
  decide +kernel
/-- V-E4, V-E5, V-E11. -/
theorem test_encode_errors : let p := fun m c => withCaps 65536 c { after (msgS abc) [.count, .build, .gen] with
      msgBuf := buf 0 m, msgLen := BitVec.ofNat 32 m.length }
    [0x10, 0x14, 0x18].map (see (after (p [0x61, 0x62, 0x64] 1048576) [.encode])) = [6, 0x64000002, 7] ∧
    [0x10, 0x14, 0x18].map (see (after (p abc 14) [.encode])) = [9, 0x0F, 7] ∧
    [0x10, 0x14, 0x18].map (see (after (p [0x61, 0xC3] 1048576) [.encode])) = [4, 0xC3000001, 7] := by decide +kernel
/-- V-W1. -/
theorem test_write_hdr : let t := after (msgS abc) [.count, .build, .gen, .encode, .writeHdr]
    t.contBuf = buf 1 abcCont ∧ [0x20, 0x30, 0x34, 0x18].map (see t) = [15, 14, 1, 0x1F] := by decide +kernel
/-- V-W4. -/
theorem test_write_hdr_not_ready : [0x10, 0x14, 0x18].map (see (after State.reset [.writeHdr])) = [2, 8, 0] := by
  decide +kernel
/-- V-R1. -/
theorem test_read_hdr : [0x18, 0x24, 0x28, 0x2C, 0x30, 0x34].map (see (after (contS abcCont) [.readHdr]))
    = [0x11, 3, 3, 5, 14, 1] := by decide +kernel
/-- V-R3, V-R5, V-R7, V-R8, V-R9, V-R10, V-R12: each field's error offset. -/
theorem test_read_hdr_errors :
    ([[0, 0, 0, 0], [0, 0, 0, 1, 0x80, 0, 1, 0], [0, 0, 0, 2, 0x61, 0, 1, 0x61, 0, 1, 6, 0x40],
      [0, 0, 0, 1, 0x61, 0, 0, 0], [0, 0, 0, 1, 0x61, 0, 1, 8], [0, 0, 0, 1, 0x61, 0, 1, 3],
      [0xFF, 0xFF, 0xFF, 0xFF, 0x61, 0, 1]] : List (List Byte)).map
      (fun l => (see (after (contS l) [.readHdr]) 0x10, see (after (contS l) [.readHdr]) 0x14))
    = [(7, 0), (7, 4), (7, 7), (7, 5), (7, 7), (7, 7), (7, 0)] := by decide +kernel

/-! ### DECODE and the composites -/

/-- V-D9: counts are not compared with the header. -/
theorem test_decode : let t := after (contS (abcHdr ++ [3, 0xB0, 0])) [.readHdr, .build, .decode]
    t.message = [0x61, 0x62] ++ List.replicate 9 0x63 ∧ see t 0x1C = 11 := by decide +kernel
/-- V-D16: HDR_V missing. -/
theorem test_decode_not_ready : [0x10, 0x14, 0x1C].map (see (after (msgS abc) [.count, .build, .decode])) = [2, 0x10, 3] := by
  decide +kernel
/-- V-T4. -/
theorem test_compress : let t := after (msgS abra) [.compress]
    t.container = [0, 0, 0, 5, 0x61, 0, 5, 0x62, 0, 2, 0x72, 0, 2, 0x63, 0, 1, 0x64, 0, 1, 1, 0x6E, 0x8A, 0xDC] ∧
    [0x20, 0x28, 0x2C, 0x30, 0x34, 0x18].map (see t) = [23, 1, 23, 20, 3, 0x1F] := by decide +kernel
/-- V-T15. -/
theorem test_compress_capacity : [0x10, 0x14, 0x20, 0x18].map (see (after (withCaps 65536 14 (msgS abc)) [.compress]))
    = [9, 0x0F, 0, 7] := by decide +kernel
/-- V-S1, V-D8: repeats of a single leaf; the padding bits are not checked. -/
theorem test_decompress :
    (after (contS aaaaCont) [.decompress]).message = [0x61, 0x61, 0x61, 0x61] ∧
    (after (contS (abcHdr ++ [3, 0xB7])) [.decompress]).message = abc ∧
    see (after (contS abcCont) [.decompress]) 0x18 = 0x13 := by decide +kernel
/-- V-D2, V-D3, V-D4, V-D6: the errors of the DECODE stage. -/
theorem test_decompress_errors : let e := fun m l => [0x10, 0x14, 0x1C, 0x18].map (see (after (withCaps m 1048576 (contS l)) [.decompress]))
    e 65536 (abcHdr ++ [5, 0xA0]) = [8, 2, 0, 0x13] ∧ e 65536 (aaaaCont ++ [0xFF]) = [8, 0, 0, 0x13] ∧
    e 16 [0, 0, 0, 1, 0x61, 0, 0x11, 0] = [9, 0x11, 0, 0x13] ∧ e 2 abcCont = [9, 4, 0, 0x13] := by decide +kernel
/-- V-I1. -/
theorem test_inspect : [0x18, 0x24, 0x38, 0x3C, 0x1010, 0x1014, 0x1000, 0x1004, 0x1008, 0x100C].map
    (see (after (contS [0, 0, 0, 2, 0x61, 0, 1, 0x62, 0, 1, 6, 0x40]) [.inspect]))
    = [0x13, 2, 2, 3, 2, 0x80020000, 1, 0xC3FFFF61, 1, 0xC3FFFF62] := by decide +kernel
/-- V-I3. -/
theorem test_inspect_corrupt : [0x10, 0x14, 0x18].map (see (after (contS [0, 0, 0, 2, 0x61, 0, 1]) [.inspect])) = [7, 0, 0] := by
  decide +kernel
/-- R190: NOP after an error completion keeps the error registers as its acceptance left them. -/
theorem test_nop : exec .nop { State.reset with engine := .busy 0 } = .next { State.reset with done := true } := by rfl

/-! ### The bus and reset -/

/-- V-X1: an illegal code completes at once. -/
theorem test_illegal_code : [0x0C, 0x10, 0x14, 0x08].map (see (at1 State.reset [wr32 0x008 0x08])) = [6, 1, 8, 8] := by decide
/-- V-X5, V-X12, V-X13: ID, the reserved range, an unmapped register. -/
theorem test_reads : [0x000, 0x300000, 0x0000F0].map (fun a => (at1 State.reset [rd32 a]).response)
    = [some { rdata := some 0x48554646, err := false }, some { rdata := some 0, err := false },
      some { rdata := some 0, err := false }] := by decide
/-- V-X6, V-X7, V-X8, V-X9. -/
theorem test_misaligned :
    [Access.mk 0x000006 true 2 0, Access.mk 0x000004 true 0 1, Access.mk 0x100000 true 3 0, Access.mk 0x100001 true 2 0].map
      (fun a => (at1 State.reset [.access a]).response) = List.replicate 4 (some { rdata := none, err := true }) ∧
    see (at1 State.reset [.access (Access.mk 0x000004 true 0 1)]) 0x004 = 0 := by decide
/-- V-X10: little-endian lanes. -/
theorem test_lanes : (at1 State.reset [wr32 0x100000 0x64636261]).msgBuf.cells = [(0, 0x61), (1, 0x62), (2, 0x63), (3, 0x64)] := by
  decide
/-- V-X14: RAZ/WI beyond the capacity. -/
theorem test_capacity_edge : let s := withCaps 16 1048576 State.reset
    (at1 s [wr32 0x10000C 0x44332211]).msgBuf.cells = [(12, 0x11), (13, 0x22), (14, 0x33), (15, 0x44)] ∧
    (at1 s [.access { addr := 0x100010, we := true, size := 0, wdata := 0x55 }]).msgBuf.cells = [] ∧
    (at1 s [.access { addr := 0x100010, we := false, size := 0, wdata := 0 }]).response
      = some { rdata := some 0, err := false } := by decide
/-- V-X15, V-X16: a write of the BUSY bit does nothing; a W1C of DONE lowers irq and keeps ERR. -/
theorem test_w1c : let s := { State.reset with ie := true, done := true, err := true }
    s.irq = true ∧ (at1 s [wr32 0x00C 2]).irq = false ∧ (at1 s [wr32 0x00C 2]).statusWord = 4 ∧
    (at1 s [wr32 0x00C 1]).statusWord = 6 := by decide
/-- V-X17, V-X18. -/
theorem test_ctrl_and_code_sel : see (at1 State.reset [wr32 0x004 0xFFFFFFFF]) 0x004 = 3 ∧
    see (at1 State.reset [wr32 0x048 0x161]) 0x048 = 0x61 := by decide
/-- P5: the NOP write while BUSY is rejected (run a), after the completion accepted (run b). -/
theorem test_overlap : (at1 { State.reset with engine := .busy 0x10 } [wr32 0x008 0]).statusWord = 9 ∧
    (at1 { State.reset with done := true, lastCmd := 0x10 } [wr32 0x008 0]).engine = .busy 0 := by decide
/-- R70, R71 (D17): while BUSY a length write is ignored, CTRL takes IE but not SYM8. -/
theorem test_busy_writes : let s := { State.reset with engine := .busy 0x10 }
    see (at1 s [wr32 0x01C 3]) 0x01C = 0 ∧ see (at1 s [wr32 0x004 3]) 0x004 = 1 := by decide
/-- R48: reset while BUSY. -/
theorem test_reset : let s := { State.reset with engine := .busy 0x10, ie := true, msgLen := 3, rej := true, done := true }
    (at1 s [.reset]).statusWord = 0 ∧ (at1 s [.reset]).irq = false ∧ see (at1 s [.reset]) 0x01C = 0 ∧
    see (at1 s [.reset]) 0x038 = 0x1FF := by decide
/-- The placed word runs as the very next step after reset. -/
theorem test_fetch : (nextOf (step (State.reset.withFetchWord 32 0x10))).valid.word = 0x1F := by decide +kernel

/-! ### Witnesses: for each statement of Certificates/Slice0/Obligations.lean that has hypotheses, states and operands that meet them -/

/-- Consistent states of "abc" after COUNT, BUILD, GEN, ENCODE and of a container of "abc" or "aaaa" after READ_HDR and BUILD,
written from V-B1, V-G1, V-R1 and V-S1. -/
def abcFt : FreqTable := [(0x61, 1), (0x62, 1), (0x63, 1)]
def abcTree : List Node × BitVec 9 := ([.leaf 0x61 1, .leaf 0x62 1, .leaf 0x63 1, .internal 2 0 1, .internal 3 2 3], 4)
def abcCodes : Vector (Option Bits) 256 :=
  ctSet (ctSet (ctSet (Vector.replicate 256 none) 0x63 [false]) 0x61 [true, false]) 0x62 [true, true]
def abcCount : State := { msgS abc with tables := Tables.reset.setFt abcFt, valid := Valid.afterCount, done := true }
def abcBuild : State := { abcCount with tables := abcCount.tables.setTree abcTree, valid := abcCount.valid.afterBuild }
def abcGen : State := { abcBuild with tables := { abcBuild.tables with ct := abcCodes }, valid := abcBuild.valid.afterGen }
def abcEncode : State := { abcGen with
  tables := { abcGen.tables with pad := 3, bitLen := 5 }, valid := abcGen.valid.afterEncode, contBuf := (buf 1 []).write 15 14 0xB0 }
def opened (m : Nat) (l : List Byte) (h : Header) (tree : List Node × BitVec 9) : State :=
  { withCaps m 1048576 (contS l) with
    tables := (Tables.reset.setHeader h l.length).setTree tree
    valid := { ftV := true, treeV := true, ctV := false, encV := false, hdrV := true } }
def openedAbc (m : Nat) (pad last : Byte) : State := opened m (abcHdr ++ [pad, last]) ⟨abcFt, pad⟩ abcTree
def openedAaaa (m : Nat) (rest : List Byte) : State := opened m (aaaaCont ++ rest) ⟨[(0x61, 4)], 0⟩ ([.leaf 0x61 4], 0)
def openedEmpty (rest : List Byte) : State := opened 1 ([0, 0, 0, 0, 0] ++ rest) ⟨[], 0⟩ ([], noneIndex)
/-- What `after` runs is a next state. -/
theorem after_one (i : Instr) (s : State) : exec i s = .next (after s [i]) := by cases i <;> rfl
/-- A message written into reset's MSG_BUF is the message. -/
theorem message_of_write (l : List Byte) (h : l.length ≤ 65536) :
    ({ State.reset with msgBuf := State.reset.msgBuf.writeList 65536 0 l, msgLen := BitVec.ofNat 32 l.length } : State).message = l := by
  have e : (BitVec.ofNat 32 l.length).toNat = l.length := by rw [BitVec.toNat_ofNat]; omega
  show Buffer.readList 65536 _ 0 (BitVec.ofNat 32 l.length).toNat = l
  rw [e, Buffer.readList_writeList (by omega)]
/-- A container written into reset's CONT_BUF is the container. -/
theorem container_of_write (l : List Byte) (h : l.length ≤ 1048576) :
    ({ State.reset with
        contBuf := State.reset.contBuf.writeList 1048576 0 l, contLen := BitVec.ofNat 32 l.length } : State).container = l := by
  have e : (BitVec.ofNat 32 l.length).toNat = l.length := by rw [BitVec.toNat_ofNat]; omega
  show Buffer.readList 1048576 _ 0 (BitVec.ofNat 32 l.length).toNat = l
  rw [e, Buffer.readList_writeList (by omega)]

/-- V-G1: the codes of "abc"; and the states above are consistent. -/
theorem codes_abc : generateCodes abcBuild.tables.nodes abcBuild.tables.root = abcCodes := by rfl
theorem abcBuild_ok : abcBuild.tablesOk := by decide +kernel
theorem abcGen_ok : abcGen.tablesOk :=
  ⟨by decide, by decide, fun _ => abcBuild_ok.2.2.1 rfl, fun _ => abcBuild_ok.2.2.2.1 rfl, fun _ => codes_abc.symm,
    by decide, by decide⟩
theorem abcEncode_ok : abcEncode.tablesOk :=
  ⟨by decide, by decide, fun _ => abcBuild_ok.2.2.1 rfl, fun _ => abcBuild_ok.2.2.2.1 rfl, fun _ => codes_abc.symm,
    by decide, by decide⟩

theorem witness_UnlistedCodesAreRefusedByName : legalCode 0x12 = true ∧ legalCode 0x13 = false := by decide
theorem witness_StepRunsTheRunningCommand : let s := { State.reset with engine := .busy 0x12 }
    s.engine = .busy 0x12 ∧ decodeOpc 0x12 = .ok .inspect ∧ s.events = [] ∧
    ({ s with events := [.wait] } : State).events = .wait :: [] := by decide
theorem witness_PlacedWordIsRunByTheNextStep : decodeTableWord 32 0x12 = some .inspect := by decide
/-- At the boundary MSG_LEN = MSG_CAP. -/
theorem witness_CountTabulatesTheMessage : let s := withCaps 3 1048576 (msgS abc)
    s.msgLen.toNat = s.caps.msgCap ∧ s.message = abc ∧ (∀ m ∈ s.message, tooWide s.sym8 m = false) ∧
    (∀ m, s.message.count m ≤ 65535) := by decide +kernel
theorem witness_CountedTableMeasuresTheMessage : exec .count (msgS abc) = .next (after (msgS abc) [.count]) ∧
    (after (msgS abc) [.count]).valid.ftV = true :=
  ⟨after_one _ _, by decide +kernel⟩
theorem witness_CountReportsTheFirstOffendingByte_length : let s := withCaps 2 1048576 (msgS abc)
    s.caps.msgCap < s.msgLen.toNat := by decide
theorem witness_CountReportsTheFirstOffendingByte_width : let s := msgS [0x61, 0xC3]
    s.msgLen.toNat ≤ s.caps.msgCap ∧ s.message = [0x61] ++ 0xC3 :: [] ∧ (∀ x ∈ [0x61#8], tooWide s.sym8 x = false) ∧
    (∀ x, [0x61#8].count x ≤ 65535) ∧ tooWide s.sym8 0xC3 = true := by decide +kernel
theorem overflow_state (pre : List Byte) (hp : pre = List.replicate 65535 0x61#8) :
    ∃ s : State, s.msgLen.toNat ≤ s.caps.msgCap ∧ s.message = pre ++ 0x61#8 :: [] ∧
      (∀ x ∈ pre, tooWide s.sym8 x = false) ∧ (∀ x, pre.count x ≤ 65535) ∧ tooWide s.sym8 0x61 = false ∧
      pre.count 0x61#8 = 65535 := by
  have hl : pre.length = 65535 := by rw [hp, List.length_replicate]
  have hc : pre.count 0x61#8 = 65535 := by rw [hp, List.count_replicate_self]
  have hm : ∀ x ∈ pre, x = 0x61#8 := fun x hx => by rw [hp] at hx; exact List.eq_of_mem_replicate hx
  clear hp
  refine ⟨{ State.reset with
      msgBuf := State.reset.msgBuf.writeList 65536 0 (pre ++ [0x61#8]), msgLen := BitVec.ofNat 32 (pre ++ [0x61#8]).length },
    ?_, message_of_write _ ?_, fun x hx => ?_, fun x => ?_, rfl, hc⟩
  · show (BitVec.ofNat 32 (pre ++ [0x61#8]).length).toNat ≤ 65536
    rw [List.length_append, hl]; decide
  · rw [List.length_append, hl]; decide
  · rw [hm x hx]; rfl
  · exact le_trans List.count_le_length (by rw [hl])
/-- V-C6: the last of 65536 × 0x61. -/
theorem witness_CountReportsTheFirstOffendingByte_overflow : ∃ (s : State) (pre : List Byte),
    s.msgLen.toNat ≤ s.caps.msgCap ∧ s.message = pre ++ 0x61#8 :: [] ∧
    (∀ x ∈ pre, tooWide s.sym8 x = false) ∧ (∀ x, pre.count x ≤ 65535) ∧ tooWide s.sym8 0x61 = false ∧
    pre.count 0x61#8 = 65535 :=
  have ⟨s, h⟩ := overflow_state (List.replicate 65535 0x61#8) rfl
  ⟨s, List.replicate 65535 0x61#8, h⟩
theorem witness_BuildStoresTheTree : abcCount.valid.ftV = true := by decide +kernel
theorem witness_BuiltTreeIsFullAndShallow : abcBuild.tablesOk ∧ abcBuild.valid.treeV = true ∧
    abcBuild.tables.arena[4]? = some (.internal 3 2 3) ∧ 3 < abcBuild.tables.nodeCnt.val ∧
    3 ≠ abcBuild.tables.root.toNat ∧ 1 ≤ abcBuild.tables.ftN.val ∧ abcBuild.tables.root ≠ noneIndex ∧
    follow abcBuild.tables.nodes abcBuild.tables.root [true, false] = some 0 := by decide +kernel
theorem witness_NodeFrequenciesNeverOverflow : abcBuild.tablesOk ∧ abcBuild.valid.treeV = true ∧
    abcBuild.tables.arena[3]? = some (.internal 2 0 1) := by decide +kernel
theorem witness_GenStoresTheCodes : abcBuild.valid.treeV = true := by decide +kernel
theorem witness_CodesAreTheRootToLeafPaths : abcBuild.tablesOk ∧ abcBuild.valid.treeV = true := ⟨abcBuild_ok, rfl⟩
theorem witness_CodesArePrefixFreeAndComplete : abcGen.tablesOk ∧ abcGen.valid.ctV = true ∧
    ctAt abcGen.tables.ct 0x61 = some [true, false] ∧ ctAt abcGen.tables.ct 0x63 = some [false] ∧
    2 ≤ abcGen.tables.ftN.val := ⟨abcGen_ok, rfl, rfl, rfl, by decide⟩
/-- At the boundary CONT_CAP = 15, and V-E5's CONT_CAP = 14. -/
theorem witness_EncodePacksTheMessage : let s := withCaps 3 15 abcGen
    s.valid.ctV = true ∧ s.msgLen.toNat ≤ s.caps.msgCap ∧
    s.message = abc ∧
    (∀ m ∈ abc, tooWide s.sym8 m = false ∧ (ctAt s.tables.ct m).isSome = true) ∧
    5 + 3 * s.tables.ftN.val + ceil8 (encodeBits s.tables.ct s.message).length = s.caps.contCap := by decide +kernel
theorem witness_EncodedLengthAndPaddingAgree : abcGen.tablesOk ∧ exec .encode abcGen = .next (after abcGen [.encode]) ∧
    (after abcGen [.encode]).valid.encV = true := ⟨abcGen_ok, after_one _ _, by decide +kernel⟩
theorem witness_EncodeFailureOnlyClearsEncV_length : let s := withCaps 2 1048576 abcGen
    s.valid.ctV = true ∧ s.caps.msgCap < s.msgLen.toNat := by decide +kernel
theorem witness_EncodeFailureOnlyClearsEncV_symbol : let s := fun l => { abcGen with msgBuf := buf 0 l, msgLen := 2 }
    (s [0x61, 0xC3]).valid.ctV = true ∧ (s [0x61, 0xC3]).msgLen.toNat ≤ (s [0x61, 0xC3]).caps.msgCap ∧
    (s [0x61, 0xC3]).message = [0x61] ++ 0xC3 :: [] ∧ (s [0x61, 0x64]).message = [0x61] ++ 0x64 :: [] ∧
    (∀ x ∈ [0x61#8], tooWide abcGen.sym8 x = false ∧ (ctAt abcGen.tables.ct x).isSome = true) ∧
    tooWide abcGen.sym8 0xC3 = true ∧ tooWide abcGen.sym8 0x64 = false ∧ ctAt abcGen.tables.ct 0x64 = none := by decide +kernel
theorem witness_EncodeFailureOnlyClearsEncV_capacity : let s := withCaps 3 14 abcGen
    s.valid.ctV = true ∧ s.msgLen.toNat ≤ s.caps.msgCap ∧
    s.message = abc ∧
    (∀ m ∈ abc, tooWide s.sym8 m = false ∧ (ctAt s.tables.ct m).isSome = true) ∧
    s.caps.contCap < 5 + 3 * s.tables.ftN.val + ceil8 (encodeBits s.tables.ct s.message).length := by decide +kernel
theorem witness_UnpackReadsBitsMostSignificantFirst : 7 < 8 * [0xB0#8].length - 0 ∧ 3 ≤ 7 ∧
    (∀ k, 3 ≤ k → (0xB0#8).getLsbD k = (0xB7#8).getLsbD k) := by
  refine ⟨by decide, by decide, fun k hk => ?_⟩
  by_cases h : k < 8
  · have : ∀ j : Fin 8, 3 ≤ j.val → (0xB0#8).getLsbD j.val = (0xB7#8).getLsbD j.val := by decide
    exact this ⟨k, h⟩ hk
  · rw [BitVec.getLsbD_of_ge _ _ (by omega), BitVec.getLsbD_of_ge _ _ (by omega)]
theorem witness_WriteHdrPutsTheHeaderInFront : let s := withCaps 3 15 abcEncode
    s.valid.encV = true ∧ 5 + 3 * s.tables.ftN.val ≤ s.caps.contCap := by decide +kernel
theorem witness_ReadHdrRestoresTheTable : let s := withCaps 3 15 (contS abcCont)
    s.caps.wf = true ∧ s.contLen.toNat = s.caps.contCap ∧
    s.container = headerBytes [(0x61, 1), (0x62, 1), (0x63, 1)] 3 ++ [0xB0] ∧
    headerAllowed s.sym8 [(0x61, 1), (0x62, 1), (0x63, 1)] 3 1 := by decide +kernel
theorem witness_ReadHdrRejectsTheFirstBadField_length :
    (withCaps 3 14 (contS abcCont)).caps.contCap < (contS abcCont).contLen.toNat ∧
    (contS [0, 0, 0]).contLen.toNat ≤ (contS [0, 0, 0]).caps.contCap ∧ (contS [0, 0, 0]).contLen.toNat < 4 := by decide
/-- A count past the end, and 257 with room for its entries. -/
theorem witness_ReadHdrRejectsTheFirstBadField_past_end : let s := contS [0, 0, 0, 0]
    s.contLen.toNat ≤ s.caps.contCap ∧ s.container = be32 0 ++ [] ∧ s.contLen.toNat < 5 + 3 * 0 := by decide +kernel
theorem count_state (rest : List Byte) (hr : rest.length = 772) : ∃ s : State,
    s.contLen.toNat ≤ s.caps.contCap ∧ s.container = be32 257 ++ rest ∧ 5 + 3 * 257 ≤ s.contLen.toNat := by
  have hl : (be32 257 ++ rest).length = 776 := by rw [List.length_append, hr]; rfl
  refine ⟨_, ?_, container_of_write (be32 257 ++ rest) (by rw [hl]; decide), ?_⟩
  · show (BitVec.ofNat 32 (be32 257 ++ rest).length).toNat ≤ 1048576
    rw [hl]; decide
  · show 5 + 3 * 257 ≤ (BitVec.ofNat 32 (be32 257 ++ rest).length).toNat
    rw [hl]; decide
theorem witness_ReadHdrRejectsTheFirstBadField_count : ∃ (s : State) (rest : List Byte),
    s.contLen.toNat ≤ s.caps.contCap ∧ s.container = be32 257 ++ rest ∧ 256 < 257 ∧ 5 + 3 * 257 ≤ s.contLen.toNat :=
  have ⟨s, h⟩ := count_state (List.replicate 772 0#8) List.length_replicate
  ⟨s, List.replicate 772 0#8, h.1, h.2.1, by decide, h.2.2⟩
/-- A symbol too wide, one repeated, and a zero count. -/
theorem witness_ReadHdrRejectsTheFirstBadField_entry :
    let s := fun m lo => contS ([0, 0, 0, 2, 0x61, 0, 1, m, 0, lo, 6, 0x40] : List Byte)
    (s 0x80 1).contLen.toNat ≤ (s 0x80 1).caps.contCap ∧ 5 + 3 * 2 ≤ (s 0x80 1).contLen.toNat ∧
    (s 0x80 1).container = be32 2 ++ [(0x61#8, 1)].flatMap entryBytes ++ [0x80, 0, 1] ++ [6, 0x40] ∧
    (s 0x61 1).container = be32 2 ++ [(0x61#8, 1)].flatMap entryBytes ++ [0x61, 0, 1] ++ [6, 0x40] ∧
    (s 0x62 0).container = be32 2 ++ [(0x61#8, 1)].flatMap entryBytes ++ [0x62, 0, 0] ++ [6, 0x40] ∧
    [(0x61#8, 1)].length < 2 ∧ headerAllowed false [(0x61, 1)] 0 0 ∧ tooWide false 0x80 = true ∧
    0x61#8 ∈ [(0x61#8, 1)].map Prod.fst ∧ tooWide false 0x62 = false ∧ 0x62#8 ∉ [(0x61#8, 1)].map Prod.fst := by
  decide +kernel
/-- Padding 8, and padding 1 before an empty payload. -/
theorem witness_ReadHdrRejectsTheFirstBadField_pad : let s := contS [0, 0, 0, 1, 0x61, 0, 1, 8, 0xB0]
    let r := contS [0, 0, 0, 1, 0x61, 0, 1, 1]
    headerAllowed false [(0x61, 1)] 0 0 ∧
    (s.contLen.toNat ≤ s.caps.contCap ∧ s.container = headerBytes [(0x61, 1)] 8 ++ [0xB0] ∧ 7 < (8#8).toNat) ∧
    (r.contLen.toNat ≤ r.caps.contCap ∧ r.container = headerBytes [(0x61, 1)] 1 ++ []) := by decide +kernel
theorem witness_ReadHdrUndoesWriteHdr : abcEncode.tablesOk ∧ abcEncode.valid.encV = true ∧ abcEncode.tables.ft = abcFt ∧
    (∀ e ∈ abcFt, tooWide abcEncode.sym8 e.1 = false) := ⟨abcEncode_ok, rfl, by decide +kernel, by decide⟩
/-- At the boundary MSG_CAP = 3; a single leaf's repeats at MSG_CAP = 4; an empty table. -/
theorem witness_DecodeRecoversTheSymbols : let s := openedAbc 3 3 0xB0
    s.tablesOk ∧ s.valid.treeV = true ∧ s.valid.hdrV = true ∧ abc.length ≤ s.caps.msgCap ∧ s.tables.ft = abcFt ∧
    decodesTo abcFt (generateCodes s.tables.nodes s.tables.root) (unpack s.payload s.tables.pad.toNat) abc :=
  ⟨by decide +kernel, by decide, by decide, by decide, by decide +kernel, by decide +kernel, by decide +kernel⟩
theorem witness_DecodeRecoversTheSymbols_single : let s := openedAaaa 4 []
    s.tablesOk ∧ s.valid.treeV = true ∧ s.valid.hdrV = true ∧ 4 ≤ s.caps.msgCap ∧ s.tables.ft = [(0x61, 4)] ∧
    decodesTo [(0x61, 4)] (generateCodes s.tables.nodes s.tables.root) (unpack s.payload s.tables.pad.toNat)
      [0x61, 0x61, 0x61, 0x61] :=
  ⟨by decide +kernel, by decide, by decide, by decide, by decide +kernel, by decide +kernel, by decide +kernel⟩
theorem witness_DecodeRecoversTheSymbols_empty : let s := openedEmpty []
    s.tablesOk ∧ s.valid.treeV = true ∧ s.valid.hdrV = true ∧ 0 ≤ s.caps.msgCap ∧ s.tables.ft = [] ∧
    decodesTo [] (generateCodes s.tables.nodes s.tables.root) (unpack s.payload s.tables.pad.toNat) [] :=
  ⟨by decide +kernel, by decide, by decide, by decide, by decide +kernel, by decide +kernel, rfl⟩
/-- V-D3: bits for a single leaf. V-D7: bits for no tree. -/
theorem witness_DecodeReportsMalformedStreamsAndOverflow_bits : let s := openedAaaa 65536 [0xFF]
    s.tablesOk ∧ s.valid.treeV = true ∧ s.valid.hdrV = true ∧ s.tables.ftN.val ≤ 1 ∧
    unpack s.payload s.tables.pad.toNat ≠ [] := by decide +kernel
theorem witness_DecodeReportsMalformedStreamsAndOverflow_no_tree : let s := openedEmpty [0xFF]
    s.tablesOk ∧ s.valid.treeV = true ∧ s.valid.hdrV = true ∧ s.tables.ftN.val ≤ 1 ∧
    unpack s.payload s.tables.pad.toNat ≠ [] := by decide +kernel
/-- One repeat more than MSG_CAP. -/
theorem witness_DecodeReportsMalformedStreamsAndOverflow_repeats : let s := openedAaaa 3 []
    s.tablesOk ∧ s.valid.treeV = true ∧ s.valid.hdrV = true ∧ s.tables.ft = [(0x61, 4)] ∧
    unpack s.payload s.tables.pad.toNat = [] ∧ s.caps.msgCap < 4 := by decide +kernel
/-- V-D2: 'a', then one bit. -/
theorem witness_DecodeReportsMalformedStreamsAndOverflow_end : let s := openedAbc 65536 5 0xA0
    s.tablesOk ∧ s.valid.treeV = true ∧ s.valid.hdrV = true ∧ 2 ≤ s.tables.ftN.val ∧ [0x61#8].length ≤ s.caps.msgCap ∧
    (∀ m ∈ [0x61#8], (ctAt (generateCodes s.tables.nodes s.tables.root) m).isSome = true) ∧
    unpack s.payload s.tables.pad.toNat = encodeBits (generateCodes s.tables.nodes s.tables.root) [0x61] ++ [true] ∧
    follow s.tables.nodes s.tables.root [true] = some 3 ∧ nodeAt s.tables.nodes 3 = .internal 2 0 1 := by decide +kernel
/-- V-D6: MSG_CAP = 2, 'c' would be the third symbol. -/
theorem witness_DecodeReportsMalformedStreamsAndOverflow_full : let s := openedAbc 2 3 0xB0
    s.tablesOk ∧ s.valid.treeV = true ∧ s.valid.hdrV = true ∧ 2 ≤ s.tables.ftN.val ∧
    [0x61#8, 0x62].length = s.caps.msgCap ∧
    (∀ x ∈ [0x61#8, 0x62], (ctAt (generateCodes s.tables.nodes s.tables.root) x).isSome = true) ∧
    ctAt (generateCodes s.tables.nodes s.tables.root) 0x63 = some [false] ∧
    unpack s.payload s.tables.pad.toNat
      = encodeBits (generateCodes s.tables.nodes s.tables.root) [0x61, 0x62] ++ [false] ++ [] := by decide +kernel
/-- At the boundary CONT_CAP = 15. -/
theorem witness_CompressWritesTheContainer : let s := withCaps 3 15 (msgS abc)
    s.caps.wf = true ∧ s.msgLen.toNat ≤ s.caps.msgCap ∧ (∀ m ∈ s.message, tooWide s.sym8 m = false) ∧
    (∀ m, s.message.count m ≤ 65535) ∧
    5 + 3 * (countFrequencies s.message).length
      + ceil8 (encodeBits (codesOf (countFrequencies s.message) s.tables.nodes) s.message).length = s.caps.contCap := by
  decide +kernel
theorem witness_DecompressRecoversTheSymbols : let s := withCaps 3 15 (contS abcCont)
    let ft : FreqTable := [(0x61, 1), (0x62, 1), (0x63, 1)]
    s.caps.wf = true ∧ s.contLen.toNat ≤ s.caps.contCap ∧ s.container = headerBytes ft 3 ++ [0xB0] ∧
    headerAllowed s.sym8 ft 3 1 ∧ abc.length ≤ s.caps.msgCap ∧
    decodesTo ft (codesOf ft s.tables.nodes) (unpack [0xB0] (3#8).toNat) abc :=
  ⟨by decide, by decide, by decide +kernel, by decide, by decide, by decide +kernel, by decide +kernel⟩
theorem witness_InspectRebuildsTableAndTree : let s := withCaps 1 8 (contS aaaaCont)
    s.caps.wf = true ∧ s.contLen.toNat ≤ s.caps.contCap ∧ s.container = headerBytes [(0x61, 4)] 0 ++ [] ∧
    headerAllowed s.sym8 [(0x61, 4)] 0 0 := by decide +kernel
theorem witness_CompositesRunTheirStagesInOrder_success :
    let s := msgS abc; let a := after s [.count]; let b := after a [.build]; let c := after b [.gen]
    s.err = false ∧ exec .count s = .next a ∧ a.err = false ∧ exec .build a = .next b ∧ exec .gen b = .next c ∧
    exec .encode c = .next (after c [.encode]) ∧ (after c [.encode]).err = false :=
  ⟨rfl, after_one _ _, by decide +kernel, after_one _ _, after_one _ _, after_one _ _, by decide +kernel⟩
theorem witness_CompositesRunTheirStagesInOrder_failure : let s := contS [0, 0, 0]
    s.err = false ∧ (after s [.readHdr]).err = true ∧ (after (withCaps 2 1048576 (msgS abc)) [.count]).err = true ∧
    (after (withCaps 3 14 (msgS abc)) [.count, .build, .gen, .encode]).err = true ∧
    (after (contS (aaaaCont ++ [0xFF])) [.readHdr]).err = false ∧
    (after (contS (aaaaCont ++ [0xFF])) [.readHdr, .build, .decode]).err = true := by decide +kernel
theorem witness_DecompressUndoesCompress : (msgS abc).caps.wf = true ∧ exec .compress (msgS abc) = .next (after (msgS abc) [.compress]) ∧
    (after (msgS abc) [.compress]).valid = { ftV := true, treeV := true, ctV := true, encV := true, hdrV := true } ∧ (msgS []).msgLen = 0 :=
  ⟨by decide, after_one _ _, by decide +kernel, by decide⟩
theorem witness_MissingValidBitsReportNotReady : 0x12#32 &&& ~~~abcBuild.valid.word ≠ 0 ∧
    0x01#32 &&& ~~~State.reset.valid.word ≠ 0 ∧ 0x08#32 &&& ~~~abcGen.valid.word ≠ 0 ∧
    exec .nop State.reset = .next (after State.reset [.nop]) ∧ State.reset.errCode ≠ .notReady :=
  ⟨by decide +kernel, by decide, by decide +kernel, after_one _ _, by decide⟩
theorem witness_ValidFollowsTheSummaryTable : (contS aaaaCont).err = false ∧
    exec .inspect (contS aaaaCont) = .next (after (contS aaaaCont) [.inspect]) := ⟨rfl, after_one _ _⟩
theorem witness_CmdWriteWhileIdleIsAccepted : legalCode ((0xFFFFFF12#32).extractLsb' 0 8) = true ∧
    legalCode ((0xFFFFFF13#32).extractLsb' 0 8) = false ∧
    ({ State.reset with events := [wr32 0x008 0xFFFFFF12] } : State).events
      = .access { addr := 0x008, we := true, size := 2, wdata := 0xFFFFFF12 } :: [] := by decide
theorem witness_CmdWriteWhileBusyIsRejected : let s := { State.reset with engine := .busy 0x10, events := [wr32 0x008 0] }
    s.engine = .busy 0x10 ∧ s.events = .access { addr := 0x008, we := true, size := 2, wdata := 0 } :: [] := by decide
theorem witness_StatusWriteClearsTheWrittenOnes : ({ State.reset with done := true, events := [wr32 0x00C 0xE] } : State).events
    = .access { addr := 0x00C, we := true, size := 2, wdata := 0xE } :: [] := by decide
theorem witness_IrqIsEnabledDone : let s := { State.reset with ie := true, done := true }
    s.irq = true ∧ s.engine = .idle ∧ (at1 s [wr32 0x008 0]).irq = false ∧ (at1 s [wr32 0x00C 2]).irq = false ∧
    (at1 s [wr32 0x004 0]).irq = false ∧ (at1 { s with ie := false } [wr32 0x004 1]).irq = true := by decide
theorem witness_BusyWritesActOnlyOnCtrlStatusCmd :
    ([0x004, 0x00C, 0x008, 0x01C, 0x2FFFFC].map fun a => (Access.mk a true 2 3).legal) = [true, true, true, true, true] := by decide
theorem witness_ReadsChangeNothingButTheResponse :
    ([0x044, 0x01C, 0x2FFFFC].map fun a => ((Access.mk a false 2 0).legal, (Access.mk a false 2 0).bytes)) =
      [(true, some 4), (true, some 4), (true, some 4)] ∧ placeOf 0x01C ≠ .nothing ∧ placeOf 0x2FFFFC ≠ .nothing := by decide
theorem witness_MisalignedAccessesHaveNoEffect :
    (Access.mk 0x100000 true 3 0).size = 3 ∧
    ((Access.mk 0x0FFFFE true 2 0).addr.toNat < 0x100000 ∧ (Access.mk 0x0FFFFE true 2 0).addr.toNat % 4 ≠ 0) ∧
    (Access.mk 0x004 true 1 0).size ≠ 2 ∧
    (0x100000 ≤ (Access.mk 0x2FFFFF false 1 0).addr.toNat ∧ (Access.mk 0x2FFFFF false 1 0).addr.toNat < 0x300000 ∧
      (Access.mk 0x2FFFFF false 1 0).addr.toNat % 2 ^ (Access.mk 0x2FFFFF false 1 0).size.toNat ≠ 0) := by decide
/-- The windows' last word, and their last byte. -/
theorem witness_WindowAccessesActOnTheirBytes : State.reset.engine = .idle ∧
    (2#2, 4) ∈ [(0#2, 1), (1#2, 2), (2#2, 4)] ∧ 0xFFFFC % 4 = 0 ∧ 0xFFFFC < 0x100000 ∧
    (0#2, 1) ∈ [(0#2, 1), (1#2, 2), (2#2, 4)] ∧ 0xFFFFF % 1 = 0 ∧ 0xFFFFF < 0x100000 := by decide
theorem witness_IdleRegisterWritesStoreTheirFields : State.reset.engine = .idle ∧
    (0x04C#22).toNat < 0x100000 ∧ (0x04C#22).toNat % 4 = 0 ∧ (0x04C#22).toNat ∉ [0x004, 0x008, 0x00C, 0x01C, 0x020, 0x048] ∧
    (0x0FFFFC#22).toNat < 0x100000 ∧ (0x0FFFFC#22).toNat % 4 = 0 ∧
    (0x0FFFFC#22).toNat ∉ [0x004, 0x008, 0x00C, 0x01C, 0x020, 0x048] := by decide
theorem witness_GatedReadsFollowTheirValidBits : State.reset.valid.ctV = false ∧ State.reset.valid.ftV = false ∧
    State.reset.valid.treeV = false := by decide
/-- Both ends of each range of offsets that read 0, and the neighbours that are registers or windows. -/
theorem witness_GatedReadsFollowTheirValidBits_raz :
    ([0x070, 0x3FC, 0x800, 0xFFC, 0x1FF8, 0x0FFFFC, 0x300000, 0x3FFFFC].map placeOf) = List.replicate 8 .nothing ∧
    ([0x06C, 0x400, 0x7FC, 0x1000, 0x1FF4, 0x100000, 0x2FFFFC].map placeOf) =
      [.reg (.codeBits 7), .ftEntry 0, .ftEntry 255, .nodeFreq 0, .nodeInfo 510, .msg 0, .cont 0xFFFFC] := by decide
/-- R100, R110: the plain registers at their offsets, each with a value of its own. -/
theorem test_register_map : [0x000, 0x004, 0x008, 0x00C, 0x010, 0x014, 0x018, 0x01C, 0x020, 0x040, 0x044, 0x048].map
    (see { withCaps 5 6 State.reset with
      sym8 := true, lastCmd := 0x12, err := true, errCode := .corruptHeader, errInfo := 0x44, msgLen := 0x33, contLen := 0x22
      codeSel := 0x61, valid := { ftV := true, treeV := false, ctV := false, encV := false, hdrV := true } })
    = [0x48554646, 2, 0x12, 4, 7, 0x44, 0x11, 0x33, 0x22, 5, 6, 0x61] := by decide
/-- The last FT entry and the last node window index, and a leaf and an internal node. -/
theorem witness_InspectionWindowsShowTheTables : abcBuild.valid.ftV = true ∧ abcBuild.valid.treeV = true ∧
    abcBuild.tables.ft[2]? = some (0x63, 1) ∧ abcBuild.tables.ftN.val ≤ 255 ∧ abcBuild.tables.nodes[2] = .leaf 0x63 1 ∧
    abcBuild.tables.nodes[4] = .internal 3 2 3 ∧ 4 < abcBuild.tables.nodeCnt.val ∧ abcBuild.tables.nodeCnt.val ≤ 510 := by
  decide +kernel
theorem witness_CodeRegistersShowTheSelectedCode : let s := { abcGen with codeSel := 0x61 }
    s.valid.ctV = true ∧ ctAt s.tables.ct s.codeSel = some [true, false] ∧ [true, false].length ≤ 255 ∧
    ctAt abcGen.tables.ct 0x64 = none ∧ State.reset.valid.ctV = false := by decide +kernel
theorem witness_ResetLeavesTheListedValues :
    ({ State.reset with engine := .busy 0x10, events := [.reset] } : State).events = .reset :: [] := by decide
theorem witness_StepKeepsInvariants : let s := { openedAbc 3 3 0xB0 with engine := .busy 0x07, lastCmd := 0x07, done := false }
    s.valid.chain ∧ s.memoryOk ∧ s.engineOk ∧ s.tablesOk ∧ step s = .next (after s [.decode]) :=
  ⟨by decide +kernel, by decide +kernel, by decide +kernel, by decide +kernel, after_one .decode _⟩
theorem witness_ConsistentStatesNeverStop : let s := { State.reset with events := [.forbidden] }
    s.engineOk ∧ step s = .refused .forbiddenHost := ⟨trivial, rfl⟩
theorem witness_EveryCommandIsEventuallyDone :
    let s := { State.reset with engine := .busy 0x10, lastCmd := 0x10, events := [wr32 0x008 0, .wait, wr32 0x008 0] }
    s.engineOk ∧ Event.forbidden ∉ s.events := by decide
theorem witness_CommandsLeaveControlStateAlone : exec .count (msgS abc) = .next (after (msgS abc) [.count]) := after_one _ _
theorem witness_BuffersChangeOnlyWhereCommandsStore :
    exec .encode abcGen = .next (after abcGen [.encode]) ∧
    exec .compress (msgS abc) = .next (after (msgS abc) [.compress]) ∧ (msgS abc).caps.wf = true ∧
    exec .decompress (contS abcCont) = .next (after (contS abcCont) [.decompress]) ∧ (contS abcCont).err = false ∧
    (after (contS abcCont) [.decompress]).err = false ∧ (after (contS [0, 0, 0]) [.decompress]).err = true :=
  ⟨after_one _ _, after_one _ _, by decide, after_one _ _, rfl, by decide +kernel, by decide +kernel⟩
theorem witness_StagesLeaveOtherTablesAlone : exec .count (msgS abc) = .next (after (msgS abc) [.count]) ∧
    (after (msgS abc) [.count]).valid.ftV = true ∧
    exec .readHdr (contS abcCont) = .next (after (contS abcCont) [.readHdr]) ∧
    (after (contS abcCont) [.readHdr]).valid.ftV = true := ⟨after_one _ _, by decide +kernel, after_one _ _, by decide +kernel⟩

end Sys2Proof.Tests
end

section
/-! PROOFS. What every command and every step keeps (10_state.md): an invariant of the seven single stages is one of all
commands; the control state, the buffers' canonical form, the chain of VALID bits, and the engine's invariant. -/

namespace Sys2Proof.Machine

/-! ### Invariants of stages -/

/-- A property of states kept by the seven single stages that have an effect and by the composites' own failure effects
(R191, R192). -/
structure StageInvariant (P : State → Prop) : Prop where
  count : ∀ s, P s → P (stageCount s).state
  build : ∀ s, P s → P (stageBuild s).state
  gen : ∀ s, P s → P (stageGen s).state
  encode : ∀ s, P s → P (stageEncode s).state
  writeHdr : ∀ s, P s → P (stageWriteHdr s).state
  readHdr : ∀ s, P s → P (stageReadHdr s).state
  decode : ∀ s, P s → P (stageDecode s).state
  setContLen : ∀ s, P s → P (s.setContLen 0)
  setMsgLen : ∀ s, P s → P (s.setMsgLen 0)

/-- Composites are made of the single stages (R194), so every command's stage keeps the property. -/
theorem StageInvariant.stageOf {P : State → Prop} (h : StageInvariant P) (i : Instr) {s : State} (hs : P s) :
    P (stageOf i s).state := by
  cases i with
  | nop => exact hs
  | count => exact h.count s hs
  | build => exact h.build s hs
  | gen => exact h.gen s hs
  | encode => exact h.encode s hs
  | writeHdr => exact h.writeHdr s hs
  | readHdr => exact h.readHdr s hs
  | decode => exact h.decode s hs
  | compress =>
    refine Stage.onError_state ?_ h.setContLen
    exact Stage.andThen_state (Stage.andThen_state (Stage.andThen_state (Stage.andThen_state (h.count s hs)
      h.build) h.gen) h.encode) h.writeHdr
  | decompress =>
    refine Stage.onError_state ?_ h.setMsgLen
    exact Stage.andThen_state (Stage.andThen_state (h.readHdr s hs) h.build) h.decode
  | inspect => exact Stage.andThen_state (h.readHdr s hs) h.build

/-! Completion changes only ENGINE, DONE, ERR, ERR_CODE and ERR_INFO (R206). -/

@[simp] theorem Stage.complete_engine (r : Stage) : r.complete.engine = .idle := by cases r <;> rfl
@[simp] theorem Stage.complete_done (r : Stage) : r.complete.done = true := by cases r <;> rfl
@[simp] theorem Stage.complete_ie (r : Stage) : r.complete.ie = r.state.ie := by cases r <;> rfl
@[simp] theorem Stage.complete_sym8 (r : Stage) : r.complete.sym8 = r.state.sym8 := by cases r <;> rfl
@[simp] theorem Stage.complete_lastCmd (r : Stage) : r.complete.lastCmd = r.state.lastCmd := by cases r <;> rfl
@[simp] theorem Stage.complete_rej (r : Stage) : r.complete.rej = r.state.rej := by cases r <;> rfl
@[simp] theorem Stage.complete_codeSel (r : Stage) : r.complete.codeSel = r.state.codeSel := by cases r <;> rfl
@[simp] theorem Stage.complete_caps (r : Stage) : r.complete.caps = r.state.caps := by cases r <;> rfl
@[simp] theorem Stage.complete_response (r : Stage) : r.complete.response = r.state.response := by cases r <;> rfl
@[simp] theorem Stage.complete_events (r : Stage) : r.complete.events = r.state.events := by cases r <;> rfl
@[simp] theorem Stage.complete_valid (r : Stage) : r.complete.valid = r.state.valid := by cases r <;> rfl
@[simp] theorem Stage.complete_tables (r : Stage) : r.complete.tables = r.state.tables := by cases r <;> rfl
@[simp] theorem Stage.complete_msgBuf (r : Stage) : r.complete.msgBuf = r.state.msgBuf := by cases r <;> rfl
@[simp] theorem Stage.complete_contBuf (r : Stage) : r.complete.contBuf = r.state.contBuf := by cases r <;> rfl
@[simp] theorem Stage.complete_msgLen (r : Stage) : r.complete.msgLen = r.state.msgLen := by cases r <;> rfl
@[simp] theorem Stage.complete_contLen (r : Stage) : r.complete.contLen = r.state.contLen := by cases r <;> rfl

/-! ### The state a single stage leaves -/

/-- COUNT: a table stored, or the failure's effects (R131). -/
theorem stageCount_state (s : State) :
    (stageCount s).state = s.loseTables.setValid Valid.clear ∨
    (countLoop s.sym8 s.message 0 [] = .ok (countFrequencies s.message) ∧
      (stageCount s).state = (s.setTables (s.tables.setFt (countFrequencies s.message))).setValid Valid.afterCount) := by
  rcases stageCount_cases s with ⟨-, h⟩ | ⟨-, e, -, h⟩ | ⟨-, hc, h⟩
  · exact .inl (by rw [h]; rfl)
  · exact .inl (by rw [h]; rfl)
  · exact .inr ⟨hc, by rw [h]; rfl⟩

/-- BUILD: nothing, or the tree stored (R141). -/
theorem stageBuild_state (s : State) :
    (stageBuild s).state = s ∨
    (s.valid.ftV = true ∧
      (stageBuild s).state = (s.setTables (s.tables.setTree (buildTree s.tables.ft))).setValid s.valid.afterBuild) := by
  rcases stageBuild_cases s with ⟨hv, h⟩ | ⟨-, h⟩
  · exact .inr ⟨hv, by rw [h]; rfl⟩
  · exact .inl (by rw [h]; rfl)

/-- GEN: nothing, or the codes stored (R151). -/
theorem stageGen_state (s : State) :
    (stageGen s).state = s ∨
    (s.valid.treeV = true ∧
      (stageGen s).state =
        (s.setTables { s.tables with ct := generateCodes s.tables.nodes s.tables.root }).setValid s.valid.afterGen) := by
  rcases stageGen_cases s with ⟨hv, h⟩ | ⟨-, h⟩
  · exact .inr ⟨hv, by rw [h]; rfl⟩
  · exact .inl (by rw [h]; rfl)

/-- ENCODE: nothing, ENC_V cleared, or the payload stored where it fits (R163). -/
theorem stageEncode_state (s : State) :
    (stageEncode s).state = s ∨
    (stageEncode s).state = s.setValid s.valid.afterEncodeFailure ∨
    (s.valid.ctV = true ∧
      headerLen s.tables.ftN.val + ceil8 (encodeBits s.tables.ct s.message).length ≤ s.caps.contCap ∧
      (stageEncode s).state = (encodeWrite s (encodeBits s.tables.ct s.message).length).state) := by
  rcases stageEncode_cases s with ⟨hv, h⟩ | ⟨-, h⟩
  · rcases encodeBody_cases s with ⟨e, hb⟩ | ⟨-, -, hfit, hb⟩
    · exact .inr (.inl (by rw [h, hb]; rfl))
    · exact .inr (.inr ⟨hv, hfit, by rw [h, hb]⟩)
  · exact .inl (by rw [h]; rfl)

/-- WRITE_HDR: nothing, or the header stored (R171). -/
theorem stageWriteHdr_state (s : State) :
    (stageWriteHdr s).state = s ∨ (s.valid.encV = true ∧ (stageWriteHdr s).state = (writeHdrBody s).state) := by
  rcases stageWriteHdr_cases s with ⟨hv, h⟩ | ⟨-, h⟩
  · exact .inr ⟨hv, by rw [h]⟩
  · exact .inl (by rw [h]; rfl)

/-- READ_HDR: a parsed header stored, or the failure's effects (R172). -/
theorem stageReadHdr_state (s : State) :
    (stageReadHdr s).state = s.loseTables.setValid Valid.clear ∨
    (s.contLen.toNat ≤ s.caps.contCap ∧ ∃ h, parseHeader s.sym8 s.contRead s.contLen.toNat = .ok h ∧
      (stageReadHdr s).state = (s.setTables (s.tables.setHeader h s.contLen.toNat)).setValid Valid.afterReadHdr) := by
  rcases stageReadHdr_cases s with ⟨-, h⟩ | ⟨-, e, -, h⟩ | ⟨hl, hd, hp, h⟩
  · exact .inl (by rw [h]; rfl)
  · exact .inl (by rw [h]; rfl)
  · exact .inr ⟨hl, hd, hp, by rw [h]; rfl⟩

/-- DECODE: nothing, the message stored, or MSG_BUF lost (R183). -/
theorem stageDecode_state (s : State) :
    (stageDecode s).state = s ∨
    (∃ out, (stageDecode s).state = (s.msgWrite 0 out).setMsgLen (BitVec.ofNat 32 out.length)) ∨
    (stageDecode s).state = s.loseMsgBuf.setMsgLen 0 := by
  rcases stageDecode_cases s with ⟨-, -, h⟩ | ⟨-, h⟩
  · rcases decodeBody_cases s with ⟨out, -, hb⟩ | ⟨e, -, hb⟩
    · exact .inr (.inl ⟨out, by rw [h, hb]; rfl⟩)
    · exact .inr (.inr (by rw [h, hb]; rfl))
  · exact .inl (by rw [h]; rfl)

/-! ### The control state -/

/-- What no command changes: CTRL, LAST_CMD, REJ, CODE_SEL, the capacities and the host's side (R206). -/
def State.sameControl (s t : State) : Prop :=
  t.ie = s.ie ∧ t.sym8 = s.sym8 ∧ t.lastCmd = s.lastCmd ∧ t.rej = s.rej ∧ t.codeSel = s.codeSel ∧ t.caps = s.caps ∧
    t.response = s.response ∧ t.events = s.events

/-- Every single stage stores only in tables, VALID, buffers and lengths. -/
theorem sameControl_stageInvariant (s₀ : State) : StageInvariant s₀.sameControl where
  count s h := by rcases stageCount_state s with hs | ⟨-, hs⟩ <;> simpa [hs, State.sameControl] using h
  build s h := by rcases stageBuild_state s with hs | ⟨-, hs⟩ <;> simpa [hs, State.sameControl] using h
  gen s h := by rcases stageGen_state s with hs | ⟨-, hs⟩ <;> simpa [hs, State.sameControl] using h
  encode s h := by
    rcases stageEncode_state s with hs | hs | ⟨-, -, hs⟩ <;> simpa [hs, State.sameControl, encodeWrite] using h
  writeHdr s h := by
    rcases stageWriteHdr_state s with hs | ⟨-, hs⟩ <;> simpa [hs, State.sameControl, writeHdrBody] using h
  readHdr s h := by rcases stageReadHdr_state s with hs | ⟨-, hd, -, hs⟩ <;> simpa [hs, State.sameControl] using h
  decode s h := by rcases stageDecode_state s with hs | ⟨out, hs⟩ | hs <;> simpa [hs, State.sameControl] using h
  setContLen _ h := h
  setMsgLen _ h := h

theorem stageOf_sameControl (i : Instr) (s : State) : s.sameControl (stageOf i s).state :=
  (sameControl_stageInvariant s).stageOf i ⟨rfl, rfl, rfl, rfl, rfl, rfl, rfl, rfl⟩

/-- Settles O58: the stages keep the control state, and completion adds only ENGINE, DONE and the error fields. -/
theorem commandsLeaveControlStateAlone : Obligations.CommandsLeaveControlStateAlone := by
  intro i s t h
  rw [exec_eq] at h
  cases h
  simpa [State.sameControl] using stageOf_sameControl i s

/-! ### Steps -/

/-- A property kept by every stage, blind to what completion, acceptance, the host's inputs and the other registers
change, kept by the buffers' writes and true after a reset, is kept by every step. -/
structure StepInvariant (P : State → Prop) : Prop where
  stages : StageInvariant P
  congr : ∀ s t : State, t.valid = s.valid → t.tables = s.tables → t.msgBuf = s.msgBuf → t.contBuf = s.contBuf →
    t.caps = s.caps → P s → P t
  msgWrite : ∀ s off l, P s → P (s.msgWrite off l)
  contWrite : ∀ s off l, P s → P (s.contWrite off l)
  resetBlock : ∀ s, P s → P s.resetBlock

/-- A write to a register changes none of VALID, the tables, the buffers and the capacities. -/
theorem State.placeWrite_kept {P : State → Prop} (h : StepInvariant P) {s : State} (hs : P s) (n : Nat) (v : Word)
    (p : Place) : P (s.placeWrite n v p) := by
  have kept : ∀ t : State, t.valid = s.valid → t.tables = s.tables → t.msgBuf = s.msgBuf → t.contBuf = s.contBuf →
      t.caps = s.caps → P t := fun t hv ht hm hc hk => h.congr s t hv ht hm hc hk hs
  rcases s.placeWrite_cases n v p with hw | hw | hw | hw | ⟨-, hw | hw | hw | ⟨o, hw⟩ | ⟨o, hw⟩⟩ <;> rw [hw]
  · unfold State.writeCtrl; split <;> exact kept _ rfl rfl rfl rfl rfl
  · rcases s.writeCmd_cases v with ⟨-, hc⟩ | ⟨c, -, hc⟩ <;> rw [hc]
    · rcases s.accept_cases v with ⟨-, ha⟩ | ⟨-, ha⟩ <;> rw [ha] <;> exact kept _ rfl rfl rfl rfl rfl
    · exact kept _ rfl rfl rfl rfl rfl
  · exact kept _ rfl rfl rfl rfl rfl
  · exact hs
  · exact kept _ rfl rfl rfl rfl rfl
  · exact kept _ rfl rfl rfl rfl rfl
  · exact kept _ rfl rfl rfl rfl rfl
  · exact h.msgWrite s o _ hs
  · exact h.contWrite s o _ hs

theorem State.busAccess_kept {P : State → Prop} (h : StepInvariant P) {s : State} (hs : P s) (a : Access) :
    P (s.busAccess a) := by
  rcases s.busAccess_cases a with ⟨-, ha⟩ | ⟨-, -, w, ha | ha⟩ | ⟨-, -, n, -, ha⟩ <;> rw [ha]
  · exact h.congr s _ rfl rfl rfl rfl rfl hs
  · exact h.congr s _ rfl rfl rfl rfl rfl hs
  · exact h.congr s _ rfl rfl rfl rfl rfl hs
  · exact h.congr (s.placeWrite n a.wdata (placeOf a.addr)) _ rfl rfl rfl rfl rfl
      (State.placeWrite_kept h hs n a.wdata (placeOf a.addr))

theorem StepInvariant.step {P : State → Prop} (h : StepInvariant P) {s t : State} (hs : P s) (hst : step s = .next t) :
    P t := by
  have hev : ∀ es, P (s.setEvents es) := fun es => h.congr s _ rfl rfl rfl rfl rfl hs
  rcases step_cases hst with ⟨a, rest, -, rfl⟩ | ⟨rest, -, rfl⟩ | ⟨-, rfl⟩ | ⟨c, i, -, -, rfl⟩
  · exact State.busAccess_kept h (hev rest) a
  · exact h.resetBlock _ (hev rest)
  · exact hev _
  · exact h.congr _ _ (by simp) (by simp) (by simp) (by simp) (by simp) (h.stages.stageOf i hs)

/-! ### The buffers -/

/-- An unspecified buffer lists nothing (R44). -/
theorem Buffer.unspecified_ok (cap d : Nat) : (Buffer.unspecified d).ok cap := ⟨rfl, by simp⟩

theorem memoryOk_stageInvariant : StageInvariant State.memoryOk where
  count s h := by rcases stageCount_state s with hs | ⟨-, hs⟩ <;> rw [hs] <;> exact h
  build s h := by rcases stageBuild_state s with hs | ⟨-, hs⟩ <;> rw [hs] <;> exact h
  gen s h := by rcases stageGen_state s with hs | ⟨-, hs⟩ <;> rw [hs] <;> exact h
  encode s h := by
    rcases stageEncode_state s with hs | hs | ⟨-, -, hs⟩ <;> rw [hs]
    · exact h
    · exact h
    · exact ⟨h.1, Buffer.writeList_ok _ _ h.2⟩
  writeHdr s h := by
    rcases stageWriteHdr_state s with hs | ⟨-, hs⟩ <;> rw [hs]
    · exact h
    · exact ⟨h.1, Buffer.writeList_ok _ _ h.2⟩
  readHdr s h := by rcases stageReadHdr_state s with hs | ⟨-, hd, -, hs⟩ <;> rw [hs] <;> exact h
  decode s h := by
    rcases stageDecode_state s with hs | ⟨out, hs⟩ | hs <;> rw [hs]
    · exact h
    · exact ⟨Buffer.writeList_ok _ _ h.1, h.2⟩
    · exact ⟨Buffer.unspecified_ok _ _, h.2⟩
  setContLen _ h := h
  setMsgLen _ h := h

theorem memoryOk_stepInvariant : StepInvariant State.memoryOk where
  stages := memoryOk_stageInvariant
  congr s t _ _ hm hc hk h := by unfold State.memoryOk at *; rwa [hm, hc, hk]
  msgWrite _ off l h := ⟨Buffer.writeList_ok off l h.1, h.2⟩
  contWrite _ off l h := ⟨h.1, Buffer.writeList_ok off l h.2⟩
  resetBlock _ _ := ⟨Buffer.unspecified_ok _ _, Buffer.unspecified_ok _ _⟩

/-- Settles O52: every store goes through `Buffer.writeList`, which keeps the canonical form below the capacity. -/
theorem stepKeepsMemoryCanonical : Obligations.StepKeepsMemoryCanonical :=
  fun _ _ hs hst => memoryOk_stepInvariant.step hs hst

/-! ### The chain of VALID bits (R29) -/

theorem Valid.chain_clear : Valid.clear.chain := by decide
theorem Valid.chain_afterCount : Valid.afterCount.chain := by decide
theorem Valid.chain_afterReadHdr : Valid.afterReadHdr.chain := by decide

theorem Valid.chain_afterBuild {v : Valid} (h : v.chain) (hv : v.ftV = true) : v.afterBuild.chain := by
  obtain ⟨-, -, -, hhdr⟩ := h
  exact ⟨nofun, fun _ => hv, nofun, hhdr⟩

theorem Valid.chain_afterGen {v : Valid} (h : v.chain) (hv : v.treeV = true) : v.afterGen.chain := by
  obtain ⟨-, htree, -, hhdr⟩ := h
  exact ⟨fun _ => hv, htree, nofun, hhdr⟩

theorem Valid.chain_afterEncode {v : Valid} (h : v.chain) (hv : v.ctV = true) : v.afterEncode.chain := by
  obtain ⟨hct, htree, -, -⟩ := h
  exact ⟨hct, htree, fun _ => hv, nofun⟩

theorem Valid.chain_afterEncodeFailure {v : Valid} (h : v.chain) : v.afterEncodeFailure.chain := by
  obtain ⟨hct, htree, -, hhdr⟩ := h
  exact ⟨hct, htree, nofun, hhdr⟩

theorem Valid.chain_afterWriteHdr {v : Valid} (h : v.chain) (hv : v.encV = true) : v.afterWriteHdr.chain := by
  obtain ⟨hct, htree, henc, -⟩ := h
  exact ⟨hct, htree, henc, fun _ => htree (hct (henc hv))⟩

theorem chain_stageInvariant : StageInvariant fun s => s.valid.chain where
  count s h := by
    rcases stageCount_state s with hs | ⟨-, hs⟩ <;> rw [hs]
    · exact Valid.chain_clear
    · exact Valid.chain_afterCount
  build s h := by
    rcases stageBuild_state s with hs | ⟨hv, hs⟩ <;> rw [hs]
    · exact h
    · exact Valid.chain_afterBuild h hv
  gen s h := by
    rcases stageGen_state s with hs | ⟨hv, hs⟩ <;> rw [hs]
    · exact h
    · exact Valid.chain_afterGen h hv
  encode s h := by
    rcases stageEncode_state s with hs | hs | ⟨hv, -, hs⟩ <;> rw [hs]
    · exact h
    · exact Valid.chain_afterEncodeFailure h
    · exact Valid.chain_afterEncode h hv
  writeHdr s h := by
    rcases stageWriteHdr_state s with hs | ⟨hv, hs⟩ <;> rw [hs]
    · exact h
    · exact Valid.chain_afterWriteHdr h hv
  readHdr s h := by
    rcases stageReadHdr_state s with hs | ⟨-, hd, -, hs⟩ <;> rw [hs]
    · exact Valid.chain_clear
    · exact Valid.chain_afterReadHdr
  decode s h := by rcases stageDecode_state s with hs | ⟨out, hs⟩ | hs <;> rw [hs] <;> exact h
  setContLen _ h := h
  setMsgLen _ h := h

theorem chain_stepInvariant : StepInvariant fun s => s.valid.chain where
  stages := chain_stageInvariant
  congr s t hv _ _ _ _ h := by rwa [hv]
  msgWrite _ _ _ h := h
  contWrite _ _ _ h := h
  resetBlock _ _ := Valid.chain_clear

/-- Settles O51: VALID is clear at reset, and only the stages change it, each setting a bit whose premise it required. -/
theorem stepKeepsTheValidImplications : Obligations.StepKeepsTheValidImplications :=
  ⟨by decide, Valid.chain_clear, fun _ _ hs hst => chain_stepInvariant.step hs hst⟩

/-! ### The engine (R22, R205) -/

theorem State.engineOk_of_idle {s : State} (h : s.engine = .idle) : s.engineOk := by simp [State.engineOk, h]

/-- The invariant speaks of ENGINE, LAST_CMD, DONE and the error fields only. -/
theorem State.engineOk_congr {s t : State} (he : t.engine = s.engine) (hl : t.lastCmd = s.lastCmd)
    (hd : t.done = s.done) (hr : t.err = s.err) (hc : t.errCode = s.errCode) (hi : t.errInfo = s.errInfo)
    (h : s.engineOk) : t.engineOk := by
  unfold State.engineOk at *
  rwa [he, hl, hd, hr, hc, hi]

/-- A W1C write sets no bit, so it keeps DONE and ERR clear (R25). -/
theorem State.engineOk_writeStatus {s : State} (h : s.engineOk) (v : Word) : (s.writeStatus v).engineOk := by
  unfold State.engineOk at *
  cases he : s.engine with
  | idle => simp [he]
  | busy c => simp_all

/-- An accepted command's code is legal and in LAST_CMD, its status clear (R205). -/
theorem State.engineOk_accept (s : State) (v : Word) : (s.accept v).engineOk := by
  rcases s.accept_cases v with ⟨hl, ha⟩ | ⟨-, ha⟩ <;> rw [ha]
  · exact ⟨hl, rfl, rfl, rfl, rfl, rfl⟩
  · exact State.engineOk_of_idle rfl

theorem State.engineOk_placeWrite {s : State} (h : s.engineOk) (n : Nat) (v : Word) (p : Place) :
    (s.placeWrite n v p).engineOk := by
  have kept : ∀ t : State, t.engine = s.engine → t.lastCmd = s.lastCmd → t.done = s.done → t.err = s.err →
      t.errCode = s.errCode → t.errInfo = s.errInfo → t.engineOk :=
    fun t he hl hd hr hc hi => State.engineOk_congr he hl hd hr hc hi h
  rcases s.placeWrite_cases n v p with hw | hw | hw | hw | ⟨-, hw | hw | hw | ⟨o, hw⟩ | ⟨o, hw⟩⟩ <;> rw [hw]
  · unfold State.writeCtrl; split <;> exact kept _ rfl rfl rfl rfl rfl rfl
  · rcases s.writeCmd_cases v with ⟨-, hc⟩ | ⟨c, -, hc⟩ <;> rw [hc]
    · exact s.engineOk_accept v
    · exact kept _ rfl rfl rfl rfl rfl rfl
  · exact State.engineOk_writeStatus h v
  all_goals exact kept _ rfl rfl rfl rfl rfl rfl

theorem State.engineOk_busAccess {s : State} (h : s.engineOk) (a : Access) : (s.busAccess a).engineOk := by
  rcases s.busAccess_cases a with ⟨-, ha⟩ | ⟨-, -, w, ha | ha⟩ | ⟨-, -, n, -, ha⟩ <;> rw [ha]
  · exact h
  · exact h
  · exact h
  · exact State.engineOk_placeWrite h n a.wdata (placeOf a.addr)

/-- Settles O53: acceptance sets up the invariant, every completion makes the engine IDLE, and no other write touches it but
the W1C of STATUS. -/
theorem stepKeepsTheEngineConsistent : Obligations.StepKeepsTheEngineConsistent := by
  intro s t hs hst
  rcases step_cases hst with ⟨a, rest, -, rfl⟩ | ⟨rest, -, rfl⟩ | ⟨-, rfl⟩ | ⟨c, i, -, -, rfl⟩
  · exact State.engineOk_busAccess (s := s.setEvents rest) hs a
  · exact State.engineOk_of_idle rfl
  · exact hs
  · exact State.engineOk_of_idle (by simp)

/-! ### The running command -/

/-- Settles O4: no input stands before the engine's turn. -/
theorem stepRunsTheRunningCommand : Obligations.StepRunsTheRunningCommand := by
  intro s c i he hd hev
  have turn : ∀ rest, engineTurn s rest = exec i s := fun rest => by simp [engineTurn, he, hd]
  rcases hev with h | ⟨rest, h⟩ <;> simp [step, h, turn]

end Sys2Proof.Machine
end

section
/-! PROOFS. Every valid table stays consistent (10_state.md rules R28, R40, R41, R43): what each stage stores meets the
invariant of its VALID bit, and State.reset meets all the invariants. -/

namespace Sys2Proof.Machine

/-- A number that fits a word is read back. -/
theorem toNat_ofNat_of_lt {w n : Nat} (h : n < 2 ^ w) : (BitVec.ofNat w n).toNat = n :=
  (BitVec.toNat_ofNat _ _).trans (Nat.mod_eq_of_lt h)

/-! ### What COUNT and READ_HDR store -/

/-- R130, R131: the entries of a successful COUNT are counts of 1 to 65535. -/
theorem countFrequencies_bounds {sym8 : Bool} {l : List Byte} (h : countLoop sym8 l 0 [] = .ok (countFrequencies l)) :
    ∀ e ∈ countFrequencies l, 1 ≤ e.2 ∧ e.2 ≤ 65535 := by
  intro e he
  refine ⟨countFrequencies_pos l e he, ?_⟩
  rw [← countOf_eq_of_mem (countFrequencies_nodup l) he]
  exact countLoop_bound h (by simp [countOf]) e.1

/-- A stored table with distinct symbols and counts of 1 to 65535 reads back (R40). -/
theorem Tables.ft_setFt_of_bounds (t : Tables) {l : FreqTable} (hn : (l.map Prod.fst).Nodup)
    (hb : ∀ e ∈ l, 1 ≤ e.2 ∧ e.2 ≤ 65535) : (t.setFt l).ft = l :=
  Tables.ft_setFt t l (length_le_of_nodup_syms hn) fun e he => by have := (hb e he).2; omega

theorem Tables.ftOk_setFt (t : Tables) {l : FreqTable} (hn : (l.map Prod.fst).Nodup)
    (hb : ∀ e ∈ l, 1 ≤ e.2 ∧ e.2 ≤ 65535) : (t.setFt l).ftOk := by
  unfold Tables.ftOk
  rw [Tables.ft_setFt_of_bounds t hn hb]
  exact ⟨hn, hb⟩

/-- A header that parses is one R108 allows, and the container holds it (R172). -/
theorem parseHeader_ok {sym8 : Bool} {get : Nat → Byte} {len : Nat} {h : Header}
    (hp : parseHeader sym8 get len = .ok h) :
    headerLen h.table.length ≤ len ∧ headerAllowed sym8 h.table h.pad (len - headerLen h.table.length) := by
  unfold parseHeader at hp
  split at hp
  · cases hp
  simp only at hp
  generalize ofBe32 (get 0) (get 1) (get 2) (get 3) = n at hp
  split at hp
  · cases hp
  split at hp
  · cases hp
  cases hr : readEntries sym8 get n 4 [] with
  | error e => rw [hr] at hp; cases hp
  | ok t =>
    obtain ⟨hlen, hnodup, hval⟩ := readEntries_ok hr (by simp) (by simp)
    rw [List.length_nil, Nat.zero_add] at hlen
    simp only [hr] at hp
    split at hp
    · cases hp
    split at hp
    · cases hp
    cases hp
    rename_i hfits hmax hpad hempty
    subst hlen
    refine ⟨Nat.le_of_not_lt hfits, Nat.le_of_not_lt hmax, hnodup, hval, Nat.le_of_not_lt hpad, fun h0 => ?_⟩
    exact Classical.byContradiction fun hne => hempty ⟨h0, hne⟩

/-- A payload of `p` bytes of which the last `pad` bits are padding has `8p − pad` bits (R105, R161, R172). -/
theorem ceil8_and_padOf_of_padding {p pad : Nat} (hpad : pad ≤ 7) (h0 : p = 0 → pad = 0) :
    ceil8 (8 * p - pad) = p ∧ padOf (8 * p - pad) = pad := by
  unfold ceil8 padOf
  omega

/-- The descriptors READ_HDR stores agree (R105, R172). -/
theorem Tables.hdrOk_setHeader (t : Tables) {sym8 : Bool} {h : Header} {len cap : Nat} (hcap : cap ≤ 1048576)
    (hl : len ≤ cap) (hfits : headerLen h.table.length ≤ len)
    (ha : headerAllowed sym8 h.table h.pad (len - headerLen h.table.length)) : (t.setHeader h len).hdrOk cap := by
  obtain ⟨hmax, -, -, hpad, hempty⟩ := ha
  have hftN := Tables.setFt_ftN t h.table hmax
  have hoff : (BitVec.ofNat 32 (headerLen h.table.length)).toNat = headerLen h.table.length :=
    toNat_ofNat_of_lt (by omega)
  generalize hp : len - headerLen h.table.length = p at hempty
  have hpay : (BitVec.ofNat 32 p).toNat = p := toNat_ofNat_of_lt (by omega)
  have hbits : (BitVec.ofNat 32 (8 * p - h.pad.toNat)).toNat = 8 * p - h.pad.toNat :=
    toNat_ofNat_of_lt (by omega)
  have hpad3 : (h.pad.setWidth 3).toNat = h.pad.toNat := by rw [BitVec.toNat_setWidth]; omega
  obtain ⟨hceil, hpadOf⟩ := ceil8_and_padOf_of_padding (p := p) hpad fun h0 => by simp [hempty h0]
  simp only [Tables.hdrOk, Tables.setHeader, hftN, hp, hoff, hpay, hbits, hpad3, hceil, hpadOf, true_and]
  omega

/-! ### What BUILD, ENCODE and WRITE_HDR store -/

/-- A stored tree of the table is its tree (R28, R41). -/
theorem Tables.treeOk_setTree (t : Tables) : (t.setTree (buildTree t.ft)).treeOk := by
  unfold Tables.treeOk Tables.arena
  rw [Tables.setTree_arena t _ (buildTree_length_le t)]
  rfl

/-- What ENCODE leaves in PAD_R and BITLEN_R for a payload that fits behind the header (R161, R163). -/
theorem Tables.encOk_of_fits (t : Tables) (bits : Bits) {cap : Nat} (hcap : cap ≤ 1048576)
    (hfit : headerLen t.ftN.val + ceil8 bits.length ≤ cap) :
    ({ t with bitLen := BitVec.ofNat 32 bits.length, pad := BitVec.ofNat 3 (pack bits).2 } : Tables).encOk cap := by
  have hlen : (BitVec.ofNat 32 bits.length).toNat = bits.length :=
    toNat_ofNat_of_lt (by unfold ceil8 at hfit; omega)
  have hpad : (BitVec.ofNat 3 (pack bits).2).toNat = padOf bits.length := toNat_ofNat_of_lt (padOf_lt bits.length)
  simp only [Tables.encOk, hlen, hpad, true_and]
  exact hfit

/-- What WRITE_HDR leaves in PAYOFF_R and PAYLEN_R (R171). -/
theorem Tables.hdrOk_of_encOk {t : Tables} {cap : Nat} (hcap : cap ≤ 1048576) (h : t.encOk cap) :
    ({ t with
        payOff := BitVec.ofNat 32 (headerLen t.ftN.val)
        payLen := BitVec.ofNat 32 (ceil8 t.bitLen.toNat) } : Tables).hdrOk cap := by
  obtain ⟨hpad, hfit⟩ := h
  exact ⟨toNat_ofNat_of_lt (by omega), toNat_ofNat_of_lt (by omega), hpad, hfit⟩

theorem Caps.wf_contCap {c : Caps} (h : c.wf = true) : c.contCap ≤ 1048576 := by
  simp only [Caps.wf, Bool.and_eq_true, decide_eq_true_eq] at h
  exact h.2

/-! ### The invariant -/

/-- With VALID clear only the capacities are claimed. -/
theorem State.tablesOk_of_clear {s : State} (hk : s.caps.wf = true) (hv : s.valid = Valid.clear) : s.tablesOk := by
  unfold State.tablesOk
  rw [hv]
  exact ⟨hk, Valid.chain_clear, nofun, nofun, nofun, nofun, nofun⟩

theorem tablesOk_build {s : State} (h : s.tablesOk) : (stageBuild s).state.tablesOk := by
  rcases stageBuild_state s with hs | ⟨hv, hs⟩ <;> rw [hs]
  · exact h
  · obtain ⟨hk, hchain, hft, -, -, -, hhdr⟩ := h
    exact ⟨hk, Valid.chain_afterBuild hchain hv, hft, fun _ => s.tables.treeOk_setTree, nofun, nofun, hhdr⟩

theorem tablesOk_gen {s : State} (h : s.tablesOk) : (stageGen s).state.tablesOk := by
  rcases stageGen_state s with hs | ⟨hv, hs⟩ <;> rw [hs]
  · exact h
  · obtain ⟨hk, hchain, hft, htree, -, -, hhdr⟩ := h
    exact ⟨hk, Valid.chain_afterGen hchain hv, hft, htree, fun _ => rfl, nofun, hhdr⟩

theorem tablesOk_encode {s : State} (h : s.tablesOk) : (stageEncode s).state.tablesOk := by
  rcases stageEncode_state s with hs | hs | ⟨hv, hfit, hs⟩ <;> rw [hs]
  · exact h
  · obtain ⟨hk, hchain, hft, htree, hct, -, hhdr⟩ := h
    exact ⟨hk, Valid.chain_afterEncodeFailure hchain, hft, htree, hct, nofun, hhdr⟩
  · obtain ⟨hk, hchain, hft, htree, hct, -, -⟩ := h
    have henc := s.tables.encOk_of_fits (encodeBits s.tables.ct s.message) (Caps.wf_contCap hk) hfit
    have hchain' := Valid.chain_afterEncode hchain hv
    simp only [encodeWrite, Stage.state_ok, State.tablesOk, State.setValid_valid, State.setValid_tables,
      State.setTables_tables, State.setValid_caps, State.setTables_caps, State.contWrite_caps]
    exact ⟨hk, hchain', hft, htree, hct, fun _ => henc, nofun⟩

theorem tablesOk_writeHdr {s : State} (h : s.tablesOk) : (stageWriteHdr s).state.tablesOk := by
  rcases stageWriteHdr_state s with hs | ⟨hv, hs⟩ <;> rw [hs]
  · exact h
  · obtain ⟨hk, hchain, hft, htree, hct, henc, -⟩ := h
    have hhdr := Tables.hdrOk_of_encOk (Caps.wf_contCap hk) (henc hv)
    have hchain' := Valid.chain_afterWriteHdr hchain hv
    simp only [writeHdrBody, Stage.state_ok, State.tablesOk, State.setValid_valid, State.setValid_tables,
      State.setTables_tables, State.setValid_caps, State.setTables_caps, State.setContLen_caps, State.contWrite_caps]
    exact ⟨hk, hchain', hft, htree, hct, henc, fun _ => hhdr⟩

theorem tablesOk_count {s : State} (h : s.tablesOk) : (stageCount s).state.tablesOk := by
  obtain ⟨hk, -⟩ := h
  rcases stageCount_state s with hs | ⟨hc, hs⟩ <;> rw [hs]
  · exact State.tablesOk_of_clear hk rfl
  · exact ⟨hk, Valid.chain_afterCount,
      fun _ => Tables.ftOk_setFt _ (countFrequencies_nodup _) (countFrequencies_bounds hc), nofun, nofun, nofun, nofun⟩

theorem tablesOk_readHdr {s : State} (h : s.tablesOk) : (stageReadHdr s).state.tablesOk := by
  obtain ⟨hk, -⟩ := h
  rcases stageReadHdr_state s with hs | ⟨hl, hd, hp, hs⟩ <;> rw [hs]
  · exact State.tablesOk_of_clear hk rfl
  · obtain ⟨hfits, ha⟩ := parseHeader_ok hp
    obtain ⟨-, hnodup, hval, -⟩ := id ha
    exact ⟨hk, Valid.chain_afterReadHdr, fun _ => Tables.ftOk_setFt _ hnodup fun e he => (hval e he).2, nofun, nofun,
      nofun, fun _ => Tables.hdrOk_setHeader _ (Caps.wf_contCap hk) hl hfits ha⟩

theorem tablesOk_decode {s : State} (h : s.tablesOk) : (stageDecode s).state.tablesOk := by
  rcases stageDecode_state s with hs | ⟨out, hs⟩ | hs <;> rw [hs] <;> exact h

theorem tablesOk_stepInvariant : StepInvariant State.tablesOk where
  stages :=
    { count := fun _ => tablesOk_count
      build := fun _ => tablesOk_build
      gen := fun _ => tablesOk_gen
      encode := fun _ => tablesOk_encode
      writeHdr := fun _ => tablesOk_writeHdr
      readHdr := fun _ => tablesOk_readHdr
      decode := fun _ => tablesOk_decode
      setContLen := fun _ h => h
      setMsgLen := fun _ h => h }
  congr s t hv ht _ _ hk h := by unfold State.tablesOk at *; rwa [hv, ht, hk]
  msgWrite _ _ _ h := h
  contWrite _ _ _ h := h
  resetBlock _ h := State.tablesOk_of_clear h.1 rfl

/-- Settles O54: each stage stores what its VALID bit claims and clears the bits whose claims it breaks. -/
theorem stepKeepsTheTablesConsistent : Obligations.StepKeepsTheTablesConsistent :=
  fun _ _ hs hst => tablesOk_stepInvariant.step hs hst

/-- Settles O55: ENGINE is IDLE, the buffers list nothing and VALID is clear. -/
theorem resetMeetsTheInvariants : Obligations.ResetMeetsTheInvariants :=
  ⟨trivial, ⟨Buffer.unspecified_ok _ 0, Buffer.unspecified_ok _ 1⟩, State.tablesOk_of_clear (by decide) rfl⟩

end Sys2Proof.Machine
end

section
/-! PROOFS. The tree builder's loop (41_tree_builder.md rule R140): a property of arena and working set that merging keeps
is one of the built tree; the frequencies add up with no overflow (10_state.md rule R42). -/

namespace Sys2Proof.Machine

/-! ### Induction over the builder's loop -/

/-- The node that merges `a` and `b` (R140). -/
def mergedNode (arena : List Node) (a b : Nat) : Node :=
  .internal (BitVec.ofNat 32 (freqOf arena a + freqOf arena b)) (BitVec.ofNat 9 a) (BitVec.ofNat 9 b)

/-- A property of the arena and the working set that does not look at the set's order and that merging two nodes of the
arena keeps. -/
structure BuilderInvariant (P : List Node → List Nat → Prop) : Prop where
  perm : ∀ arena w w', w.Perm w' → P arena w → P arena w'
  merge : ∀ arena a b rest, arena.length < 511 → (∀ i ∈ a :: b :: rest, i < arena.length) → P arena (a :: b :: rest) →
    P (arena ++ [mergedNode arena a b]) (arena.length :: rest)

theorem sortWork_perm (arena : List Node) (w : List Nat) : (sortWork arena w).Perm w := List.perm_insertionSort _ w

theorem mergeLoop_succ_of_sorted {arena : List Node} {w : List Nat} {a b : Nat} {rest : List Nat} (fuel : Nat)
    (h : sortWork arena w = a :: b :: rest) :
    mergeLoop (fuel + 1) arena w = mergeLoop fuel (arena ++ [mergedNode arena a b]) (rest ++ [arena.length]) := by
  simp only [mergeLoop, h, mergedNode]

theorem BuilderInvariant.mergeLoop {P : List Node → List Nat → Prop} (hP : BuilderInvariant P) :
    ∀ (fuel : Nat) (arena : List Node) (w : List Nat), fuel < w.length → arena.length + w.length ≤ 512 →
      (∀ i ∈ w, i < arena.length) → P arena w →
      P (mergeLoop fuel arena w).1 (mergeLoop fuel arena w).2 ∧
        ∀ i ∈ (mergeLoop fuel arena w).2, i < (mergeLoop fuel arena w).1.length := by
  intro fuel
  induction fuel with
  | zero => exact fun arena w _ _ hw h => ⟨h, hw⟩
  | succ fuel ih =>
    intro arena w hf hl hw h
    have hp := sortWork_perm arena w
    match hs : sortWork arena w with
    | [] => have := hp.length_eq; simp [hs] at this; omega
    | [a] => have := hp.length_eq; simp [hs] at this; omega
    | a :: b :: rest =>
      rw [hs] at hp
      have hlen := hp.length_eq
      simp only [List.length_cons] at hlen
      have hw' : ∀ i ∈ a :: b :: rest, i < arena.length := fun i hi => hw i (hp.mem_iff.mp hi)
      have hm := hP.merge arena a b rest (by omega) hw' (hP.perm arena w _ hp.symm h)
      rw [mergeLoop_succ_of_sorted fuel hs]
      refine ih _ _ ?_ ?_ ?_ (hP.perm _ _ _ (List.perm_append_singleton _ _).symm hm)
      · simp; omega
      · simp; omega
      · intro i hi
        simp only [List.mem_append, List.mem_singleton] at hi
        simp only [List.length_append, List.length_singleton]
        rcases hi with hi | rfl
        · have := hw' i (by simp [hi]); omega
        · omega

@[simp] theorem leavesOf_length (ft : FreqTable) : (leavesOf ft).length = ft.length := by simp [leavesOf]

/-- The built tree of a nonempty table: the property holds with the root as the only working node. -/
theorem BuilderInvariant.buildTree {P : List Node → List Nat → Prop} (hP : BuilderInvariant P) {ft : FreqTable}
    (hne : ft ≠ []) (hlen : ft.length ≤ 256) (h₀ : P (leavesOf ft) (List.range ft.length)) :
    ∃ r, r < (buildTree ft).1.length ∧ (buildTree ft).2 = BitVec.ofNat 9 r ∧ P (buildTree ft).1 [r] := by
  have hpos := List.length_pos_iff.mpr hne
  obtain ⟨h, hw⟩ := hP.mergeLoop (ft.length - 1) (leavesOf ft) (List.range ft.length) (by simp; omega) (by simp; omega)
    (by simp) h₀
  have hone := (mergeLoop_length (ft.length - 1) (leavesOf ft) (List.range ft.length) (by simp; omega)).2
  unfold Machine.buildTree
  match hm : Machine.mergeLoop (ft.length - 1) (leavesOf ft) (List.range ft.length) with
  | (arena, w) =>
    simp only [hm, List.length_range] at h hw hone
    match w with
    | [] => simp at hone; omega
    | [r] => exact ⟨r, hw r (by simp), rfl, h⟩
    | _ :: _ :: _ => simp at hone; omega

/-! ### Frequencies -/

theorem freqOf_append {arena : List Node} (more : List Node) {i : Nat} (h : i < arena.length) :
    freqOf (arena ++ more) i = freqOf arena i := by
  simp [freqOf, List.getElem?_append_left h]

theorem freqOf_append_length (arena : List Node) (n : Node) : freqOf (arena ++ [n]) arena.length = n.freq.toNat := by
  simp [freqOf]

/-- What the builder keeps of the frequencies (R42): the working set's add up to `total`, no node's exceeds it, and an
internal node's is the sum of its children's. -/
def FrequenciesAddUp (total : Nat) (arena : List Node) (w : List Nat) : Prop :=
  (w.map (freqOf arena)).sum = total ∧ ∀ n ∈ arena, n.freq.toNat ≤ total ∧
    ∀ f l r, n = .internal f l r → l.toNat < arena.length ∧ r.toNat < arena.length ∧
      f.toNat = freqOf arena l.toNat + freqOf arena r.toNat

theorem frequenciesAddUp_builderInvariant {total : Nat} (ht : total < 2 ^ 32) :
    BuilderInvariant (FrequenciesAddUp total) where
  perm arena w w' hp h := ⟨by rw [← h.1]; exact ((hp.map _).sum_eq).symm, h.2⟩
  merge arena a b rest hlen hlt h := by
    obtain ⟨hsum, hnodes⟩ := h
    have ha := hlt a (by simp)
    have hb := hlt b (by simp)
    simp only [List.map_cons, List.sum_cons] at hsum
    have hfreq : (mergedNode arena a b).freq.toNat = freqOf arena a + freqOf arena b :=
      toNat_ofNat_of_lt (by omega)
    refine ⟨?_, fun n hn => ?_⟩
    · have hrest : rest.map (freqOf (arena ++ [mergedNode arena a b])) = rest.map (freqOf arena) :=
        List.map_congr_left fun i hi => freqOf_append _ (hlt i (by simp [hi]))
      rw [List.map_cons, List.sum_cons, freqOf_append_length, hfreq, hrest]
      omega
    · simp only [List.length_append, List.length_singleton]
      rcases List.mem_append.mp hn with hn | hn
      · obtain ⟨hle, hkids⟩ := hnodes n hn
        refine ⟨hle, fun f l r he => ?_⟩
        obtain ⟨hl, hr, hf⟩ := hkids f l r he
        rw [freqOf_append _ hl, freqOf_append _ hr]
        exact ⟨by omega, by omega, hf⟩
      · rw [List.mem_singleton] at hn
        subst hn
        refine ⟨by omega, fun f l r he => ?_⟩
        have hindex : ∀ i, i < arena.length → (BitVec.ofNat 9 i).toNat = i := fun i hi =>
          toNat_ofNat_of_lt (by omega)
        injection he with hf hl hr
        rw [← hl, ← hr, hindex a ha, hindex b hb, freqOf_append _ ha, freqOf_append _ hb]
        exact ⟨by omega, by omega, hf ▸ hfreq⟩

/-- The leaves' frequencies are the table's counts. -/
theorem map_freqOf_leavesOf {ft : FreqTable} (h : ∀ e ∈ ft, e.2 < 2 ^ 32) :
    (List.range ft.length).map (freqOf (leavesOf ft)) = ft.map Prod.snd := by
  refine List.ext_getElem (by simp) fun i hi _ => ?_
  have hi' : i < ft.length := by simpa using hi
  have hi₂ := toNat_ofNat_of_lt (h ft[i] (List.getElem_mem hi'))
  simp only [freqOf, leavesOf, List.getElem_map, List.getElem_range, List.getElem?_map, List.getElem?_eq_getElem hi',
    Option.map_some, Node.freq, hi₂]

/-- The builder starts with the table's counts. -/
theorem frequenciesAddUp_leaves {ft : FreqTable} (h : ∀ e ∈ ft, e.2 < 2 ^ 32) :
    FrequenciesAddUp (ft.map Prod.snd).sum (leavesOf ft) (List.range ft.length) := by
  refine ⟨by rw [map_freqOf_leavesOf h], fun n hn => ?_⟩
  obtain ⟨e, he, rfl⟩ := List.mem_map.mp hn
  refine ⟨?_, nofun⟩
  have hle := List.single_le_sum (l := ft.map Prod.snd) (by simp) e.2 (List.mem_map_of_mem he)
  exact (toNat_ofNat_of_lt (h e he)).trans_le hle

/-- R40, R42: at most 256 counts of at most 65535. -/
theorem sum_counts_le {ft : FreqTable} (hlen : ft.length ≤ 256) (h : ∀ e ∈ ft, e.2 ≤ 65535) :
    (ft.map Prod.snd).sum ≤ 16776960 := by
  have hsum := List.sum_le_card_nsmul (ft.map Prod.snd) 65535 fun n hn => by
    obtain ⟨e, he, rfl⟩ := List.mem_map.mp hn
    exact h e he
  simp only [List.length_map, smul_eq_mul] at hsum
  omega

/-- Settles O14: the builder keeps `FrequenciesAddUp` with a total far below 2^32. -/
theorem nodeFrequenciesNeverOverflow : Obligations.NodeFrequenciesNeverOverflow := by
  intro s hs hv i n hn
  obtain ⟨-, ⟨-, htf, -, -⟩, hft, htree, -⟩ := hs
  obtain ⟨-, hcount⟩ := hft (htf hv)
  have harena : s.tables.arena = (buildTree s.tables.ft).1 := congrArg Prod.fst (htree hv)
  have hn := List.mem_of_getElem? hn
  rw [harena] at hn ⊢
  by_cases hne : s.tables.ft = []
  · rw [hne, buildTree_empty] at hn
    cases hn
  · have hle := sum_counts_le s.tables.ft_length_le fun e he => (hcount e he).2
    have h₀ := frequenciesAddUp_leaves fun e he => Nat.lt_of_le_of_lt (hcount e he).2 (by decide : 65535 < 2 ^ 32)
    obtain ⟨r, -, -, -, hnodes⟩ :=
      (frequenciesAddUp_builderInvariant (Nat.lt_of_le_of_lt hle (by decide))).buildTree hne s.tables.ft_length_le h₀
    obtain ⟨hbound, hkids⟩ := hnodes n hn
    exact ⟨hbound.trans hle, fun f l r he => (hkids f l r he).2.2⟩

end Sys2Proof.Machine
end

section
/-! PROOFS. The built tree as a binary tree, and the codes GEN reads off it (41_tree_builder.md rule R144, 42_code_table.md
rules R150–R152): exactly the table's symbols, none beginning another, with Kraft sum 1. -/

namespace Sys2Proof.Machine

/-! ### Code trees -/

/-- A binary tree with a symbol at each leaf: what an arena stores below a node. -/
inductive CodeTree where
  | leaf (sym : Byte)
  | fork (left right : CodeTree)

namespace CodeTree

/-- The symbols, left to right. -/
def leaves : CodeTree → List Byte
  | leaf sym => [sym]
  | fork l r => l.leaves ++ r.leaves

def depth : CodeTree → Nat
  | leaf _   => 0
  | fork l r => max l.depth r.depth + 1

/-- The symbols with their codes, for the path `c` to the tree (R150). -/
def codes : CodeTree → Bits → List (Byte × Bits)
  | leaf sym, c => [(sym, c)]
  | fork l r, c => l.codes (c ++ [false]) ++ r.codes (c ++ [true])

/-- The arena stores the tree at a node (R41). -/
def storedAt (arena : List Node) : CodeTree → BitVec 9 → Prop
  | leaf sym, i => ∃ f, arena[i.toNat]? = some (.leaf sym f)
  | fork l r, i => ∃ f a b, arena[i.toNat]? = some (.internal f a b) ∧ l.storedAt arena a ∧ r.storedAt arena b

@[simp] theorem codes_map_fst (t : CodeTree) (c : Bits) : (t.codes c).map Prod.fst = t.leaves := by
  induction t generalizing c with
  | leaf sym => rfl
  | fork l r hl hr => simp [codes, leaves, hl, hr]

/-- A tree with n leaves has depth at most n − 1 (R144). -/
theorem depth_lt_leaves (t : CodeTree) : t.depth < t.leaves.length := by
  induction t with
  | leaf sym => simp [depth, leaves]
  | fork l r hl hr => simp only [depth, leaves, List.length_append]; omega

/-- A code extends the path to the tree. -/
theorem prefix_of_mem_codes {t : CodeTree} {c : Bits} {e : Byte × Bits} (h : e ∈ t.codes c) : c <+: e.2 := by
  induction t generalizing c with
  | leaf sym => simp only [codes, List.mem_singleton] at h; exact h ▸ List.prefix_rfl
  | fork l r hl hr =>
    rcases List.mem_append.mp h with h | h
    · exact (List.prefix_append c [false]).trans (hl h)
    · exact (List.prefix_append c [true]).trans (hr h)

theorem length_le_of_mem_codes {t : CodeTree} {c : Bits} {e : Byte × Bits} (h : e ∈ t.codes c) :
    e.2.length ≤ c.length + t.depth := by
  induction t generalizing c with
  | leaf sym => simp only [codes, List.mem_singleton] at h; simp [h, depth]
  | fork l r hl hr =>
    simp only [depth]
    rcases List.mem_append.mp h with h | h
    · have := hl h; simp only [List.length_append, List.length_singleton] at this; omega
    · have := hr h; simp only [List.length_append, List.length_singleton] at this; omega

/-- The two subtrees' codes differ right behind the path to the fork. -/
theorem not_prefix_of_sides {c x y : Bits} (p : Bool) (hx : c ++ [p] <+: x) (hy : c ++ [!p] <+: y) : ¬ x <+: y := by
  intro hxy
  have hsame := List.prefix_of_prefix_length_le (hx.trans hxy) hy (by simp)
  have := hsame.eq_of_length (by simp)
  simp at this

/-- No code begins another (R152). -/
theorem eq_of_prefix_of_mem_codes {t : CodeTree} {c : Bits} {e e' : Byte × Bits} (he : e ∈ t.codes c)
    (he' : e' ∈ t.codes c) (h : e.2 <+: e'.2) : e = e' := by
  induction t generalizing c with
  | leaf sym => simp only [codes, List.mem_singleton] at he he'; rw [he, he']
  | fork l r hl hr =>
    rcases List.mem_append.mp he with he | he <;> rcases List.mem_append.mp he' with he' | he'
    · exact hl he he'
    · exact absurd h (not_prefix_of_sides false (prefix_of_mem_codes he) (prefix_of_mem_codes he'))
    · exact absurd h (not_prefix_of_sides true (prefix_of_mem_codes he) (prefix_of_mem_codes he'))
    · exact hr he he'

/-- The Kraft sum of a tree's codes, scaled by 2^d (R152). -/
theorem kraft_sum (t : CodeTree) (c : Bits) {d : Nat} (h : c.length + t.depth ≤ d) :
    ((t.codes c).map fun e => 2 ^ (d - e.2.length)).sum = 2 ^ (d - c.length) := by
  induction t generalizing c with
  | leaf sym => simp [codes]
  | fork l r hl hr =>
    simp only [depth] at h
    have hlen : ∀ b, (c ++ [b]).length = c.length + 1 := fun b => by simp
    rw [codes, List.map_append, List.sum_append, hl _ (by rw [hlen]; omega), hr _ (by rw [hlen]; omega), hlen, hlen,
      ← Nat.two_mul, ← Nat.pow_succ']
    congr 1
    omega

/-- A larger arena still stores the tree. -/
theorem storedAt_append {arena : List Node} (more : List Node) {t : CodeTree} {i : BitVec 9} (h : t.storedAt arena i) :
    t.storedAt (arena ++ more) i := by
  have keep : ∀ {j : Nat} {n : Node}, arena[j]? = some n → (arena ++ more)[j]? = some n := fun hj => by
    rw [List.getElem?_append_left (List.getElem?_eq_some_iff.mp hj).1, hj]
  induction t generalizing i with
  | leaf sym => obtain ⟨f, hf⟩ := h; exact ⟨f, keep hf⟩
  | fork l r hl hr =>
    obtain ⟨f, a, b, hf, ha, hb⟩ := h
    exact ⟨f, a, b, keep hf, hl ha, hr hb⟩

theorem lt_of_storedAt {arena : List Node} {t : CodeTree} {i : BitVec 9} (h : t.storedAt arena i) :
    i.toNat < arena.length := by
  cases t with
  | leaf sym => obtain ⟨f, hf⟩ := h; exact (List.getElem?_eq_some_iff.mp hf).1
  | fork l r => obtain ⟨f, a, b, hf, -⟩ := h; exact (List.getElem?_eq_some_iff.mp hf).1

end CodeTree

/-! ### The builder makes a code tree -/

/-- What the builder keeps of the trees: each working node stores one, and together their leaves are the symbols. -/
def StoresForest (syms : List Byte) (arena : List Node) (w : List Nat) : Prop :=
  ∃ ts : List CodeTree, List.Forall₂ (fun i t => t.storedAt arena (BitVec.ofNat 9 i)) w ts ∧
    (ts.flatMap CodeTree.leaves).Perm syms

theorem storesForest_builderInvariant (syms : List Byte) : BuilderInvariant (StoresForest syms) where
  perm arena w w' hp h := by
    obtain ⟨ts, hts, hl⟩ := h
    obtain ⟨ts', hts', hp'⟩ := List.perm_comp_forall₂ hp.symm hts
    exact ⟨ts', hts', (hp'.flatMap_right _).trans hl⟩
  merge arena a b rest hlen _ h := by
    obtain ⟨_, hts, hl⟩ := h
    obtain ⟨l, _, ha, hts', rfl⟩ := List.forall₂_cons_left_iff.mp hts
    obtain ⟨r, ts, hb, hrest, rfl⟩ := List.forall₂_cons_left_iff.mp hts'
    refine ⟨.fork l r :: ts, .cons ?_ (hrest.imp fun i t => CodeTree.storedAt_append _), ?_⟩
    · have hnew :
          (arena ++ [mergedNode arena a b])[(BitVec.ofNat 9 arena.length).toNat]? = some (mergedNode arena a b) := by
        rw [toNat_ofNat_of_lt (by omega), List.getElem?_concat_length]
      exact ⟨_, _, _, hnew, CodeTree.storedAt_append _ ha, CodeTree.storedAt_append _ hb⟩
    · simpa [CodeTree.leaves] using hl

/-- The builder starts with one leaf per entry. -/
theorem storesForest_leaves {ft : FreqTable} (hlen : ft.length ≤ 256) :
    StoresForest (ft.map Prod.fst) (leavesOf ft) (List.range ft.length) := by
  refine ⟨ft.map fun e => .leaf e.1, List.forall₂_iff_get.mpr ⟨by simp, fun i hi _ => ?_⟩, ?_⟩
  · have hi' : i < ft.length := by simpa using hi
    simp only [List.get_eq_getElem, List.getElem_map, List.getElem_range, CodeTree.storedAt, leavesOf,
      toNat_ofNat_of_lt (show i < 2 ^ 9 by omega), List.getElem?_map, List.getElem?_eq_getElem hi', Option.map_some]
    exact ⟨_, rfl⟩
  · rw [List.flatMap_map, List.map_eq_flatMap]
    rfl

/-- R140: the built tree of a nonempty table is a code tree over its symbols. -/
theorem buildTree_storedAt {ft : FreqTable} (hne : ft ≠ []) (hlen : ft.length ≤ 256) :
    ∃ tree : CodeTree, tree.storedAt (buildTree ft).1 (buildTree ft).2 ∧ tree.leaves.Perm (ft.map Prod.fst) := by
  obtain ⟨r, -, hr, ts, hts, hl⟩ := (storesForest_builderInvariant _).buildTree hne hlen (storesForest_leaves hlen)
  obtain ⟨tree, _, htree, hnil, rfl⟩ := List.forall₂_cons_left_iff.mp hts
  cases hnil
  exact ⟨tree, hr ▸ htree, by simpa using hl⟩

/-! ### GEN reads the codes off the tree -/

theorem nodeAt_of_arena {t : Tables} {i : BitVec 9} {n : Node} (h : t.arena[i.toNat]? = some n) :
    nodeAt t.nodes i = n := by
  obtain ⟨hlt, hn⟩ := List.getElem?_eq_some_iff.mp h
  have hi : i.toNat < 511 := by simp only [Tables.arena, List.length_take, Vector.length_toList] at hlt; omega
  simp only [Tables.arena, List.getElem_take, Vector.getElem_toList] at hn
  simp only [nodeAt, dif_pos hi, hn]

/-- Write a list of codes. -/
def ctSetAll (ct : Vector (Option Bits) 256) (l : List (Byte × Bits)) : Vector (Option Bits) 256 :=
  l.foldl (fun ct e => ctSet ct e.1 e.2) ct

/-- R150: the traversal writes the tree's codes. -/
theorem visit_of_storedAt {t : Tables} {tree : CodeTree} {fuel : Nat} {i : BitVec 9} (c : Bits)
    (ct : Vector (Option Bits) 256) (h : tree.storedAt t.arena i) (hf : tree.depth < fuel) :
    visit t.nodes fuel i c ct = ctSetAll ct (tree.codes c) := by
  induction tree generalizing fuel i c ct with
  | leaf sym =>
    obtain ⟨f, hn⟩ := h
    obtain ⟨fuel, rfl⟩ := Nat.exists_eq_add_one_of_ne_zero (Nat.ne_zero_of_lt hf)
    simp only [visit, nodeAt_of_arena hn]
    rfl
  | fork l r hl hr =>
    obtain ⟨f, a, b, hn, ha, hb⟩ := h
    obtain ⟨fuel, rfl⟩ := Nat.exists_eq_add_one_of_ne_zero (Nat.ne_zero_of_lt hf)
    simp only [CodeTree.depth] at hf
    have hfl : l.depth < fuel := by omega
    have hfr : r.depth < fuel := by omega
    simp only [visit, nodeAt_of_arena hn, hl _ _ ha hfl, hr _ _ hb hfr, ctSetAll, CodeTree.codes, List.foldl_append]

theorem ctAt_ctSet (ct : Vector (Option Bits) 256) (s m : Byte) (c : Bits) :
    ctAt (ctSet ct s c) m = if s = m then some c else ctAt ct m := by
  simp only [ctAt, ctSet, Vector.getElem_set, BitVec.toNat_inj]

theorem ctAt_ctSetAll_of_not_mem (ct : Vector (Option Bits) 256) {l : List (Byte × Bits)} {m : Byte}
    (h : m ∉ l.map Prod.fst) : ctAt (ctSetAll ct l) m = ctAt ct m := by
  induction l generalizing ct with
  | nil => rfl
  | cons e l ih =>
    simp only [List.map_cons, List.mem_cons, not_or] at h
    rw [ctSetAll, List.foldl_cons, ← ctSetAll, ih _ h.2, ctAt_ctSet, if_neg (Ne.symm h.1)]

theorem ctAt_ctSetAll_of_mem (ct : Vector (Option Bits) 256) {l : List (Byte × Bits)} (hn : (l.map Prod.fst).Nodup)
    {e : Byte × Bits} (h : e ∈ l) : ctAt (ctSetAll ct l) e.1 = some e.2 := by
  induction l generalizing ct with
  | nil => cases h
  | cons x l ih =>
    obtain ⟨hx, hn⟩ := List.nodup_cons.mp hn
    rw [ctSetAll, List.foldl_cons, ← ctSetAll]
    rcases List.mem_cons.mp h with rfl | h
    · rw [ctAt_ctSetAll_of_not_mem _ hx, ctAt_ctSet, if_pos rfl]
    · exact ih _ hn h

theorem ctAt_replicate_none (m : Byte) : ctAt (Vector.replicate 256 none) m = none := by
  simp [ctAt]

/-- The written codes are the list's, where its symbols are distinct. -/
theorem ctAt_ctSetAll_iff {l : List (Byte × Bits)} (hn : (l.map Prod.fst).Nodup) (m : Byte) (c : Bits) :
    ctAt (ctSetAll (Vector.replicate 256 none) l) m = some c ↔ (m, c) ∈ l := by
  refine ⟨fun h => ?_, ctAt_ctSetAll_of_mem _ hn⟩
  by_cases hm : m ∈ l.map Prod.fst
  · obtain ⟨e, he, rfl⟩ := List.mem_map.mp hm
    rw [ctAt_ctSetAll_of_mem _ hn he] at h
    exact Option.some.inj h ▸ he
  · rw [ctAt_ctSetAll_of_not_mem _ hm, ctAt_replicate_none] at h
    cases h

theorem Tables.arena_length_le (t : Tables) : t.arena.length ≤ 511 := by
  simp only [Tables.arena, List.length_take, Vector.length_toList]; omega

theorem Tables.treeOk_iff (t : Tables) : t.treeOk ↔ t.arena = (buildTree t.ft).1 ∧ t.root = (buildTree t.ft).2 :=
  Prod.ext_iff

/-- R150, R151: the codes of a table's tree, read off any storage that holds it. -/
theorem generateCodes_of_treeOk {t : Tables} (h : t.treeOk) {tree : CodeTree}
    (hs : tree.storedAt (buildTree t.ft).1 (buildTree t.ft).2) (hl : tree.leaves.Perm (t.ft.map Prod.fst)) :
    generateCodes t.nodes t.root = ctSetAll (Vector.replicate 256 none) (tree.codes []) := by
  obtain ⟨harena, hroot⟩ := t.treeOk_iff.mp h
  rw [← harena, ← hroot] at hs
  have hlt := CodeTree.lt_of_storedAt hs
  have hroot' : t.root ≠ noneIndex := fun hr => by
    have := t.arena_length_le
    rw [hr] at hlt
    simp at hlt; omega
  have hdepth := tree.depth_lt_leaves
  have hlen := hl.length_eq
  have := t.ft_length_le
  rw [List.length_map] at hlen
  rw [generateCodes, if_neg hroot', visit_of_storedAt [] _ hs (by omega)]

theorem generateCodes_of_empty {t : Tables} (h : t.treeOk) (he : t.ft = []) :
    generateCodes t.nodes t.root = Vector.replicate 256 none := by
  obtain ⟨-, hroot⟩ := t.treeOk_iff.mp h
  rw [he] at hroot
  exact if_pos hroot

/-- The codes depend on the frequency table alone, not on the arena's don't-care entries (R41). -/
theorem generateCodes_congr {t t' : Tables} (h : t.treeOk) (h' : t'.treeOk) (hft : t.ft = t'.ft) :
    generateCodes t.nodes t.root = generateCodes t'.nodes t'.root := by
  by_cases hne : t.ft = []
  · rw [generateCodes_of_empty h hne, generateCodes_of_empty h' (hft ▸ hne)]
  · obtain ⟨tree, hs, hl⟩ := buildTree_storedAt hne t.ft_length_le
    rw [generateCodes_of_treeOk h hs hl, generateCodes_of_treeOk h' (hft ▸ hs) (hft ▸ hl)]

/-! ### The code table -/

/-- A valid code table of a nonempty frequency table holds the codes of a code tree over its symbols. -/
theorem exists_codeTree_of_ctOk {t : Tables} (hft : t.ftOk) (htree : t.treeOk) (hct : t.ctOk) (hne : t.ft ≠ []) :
    ∃ tree : CodeTree, tree.leaves.Perm (t.ft.map Prod.fst) ∧ ∀ m c, ctAt t.ct m = some c ↔ (m, c) ∈ tree.codes [] := by
  obtain ⟨tree, hs, hl⟩ := buildTree_storedAt hne t.ft_length_le
  refine ⟨tree, hl, fun m c => ?_⟩
  rw [hct, generateCodes_of_treeOk htree hs hl]
  exact ctAt_ctSetAll_iff (by rw [CodeTree.codes_map_fst]; exact hl.nodup_iff.mpr hft.1) m c

section CodesOfTree

variable {ct : Vector (Option Bits) 256} {tree : CodeTree} (hct : ∀ m c, ctAt ct m = some c ↔ (m, c) ∈ tree.codes [])

include hct

theorem ctAt_isSome_iff_mem_leaves (m : Byte) : (ctAt ct m).isSome = true ↔ m ∈ tree.leaves := by
  rw [Option.isSome_iff_exists, ← tree.codes_map_fst [], List.mem_map]
  exact ⟨fun ⟨c, hc⟩ => ⟨(m, c), (hct m c).mp hc, rfl⟩, fun ⟨e, he, hm⟩ => ⟨e.2, (hct m e.2).mpr (hm ▸ he)⟩⟩

theorem not_prefix_of_codes {a b : Byte} {ca cb : Bits} (hab : a ≠ b) (ha : ctAt ct a = some ca)
    (hb : ctAt ct b = some cb) : ¬ ca <+: cb := fun hp =>
  hab (congrArg Prod.fst (CodeTree.eq_of_prefix_of_mem_codes ((hct a ca).mp ha) ((hct b cb).mp hb) hp))

/-- With two symbols or more the root is a fork, so every code takes an edge. -/
theorem code_length_pos (h2 : 2 ≤ tree.leaves.length) {m : Byte} {c : Bits} (hc : ctAt ct m = some c) :
    1 ≤ c.length := by
  have hmem := (hct m c).mp hc
  cases tree with
  | leaf sym => simp [CodeTree.leaves] at h2
  | fork l r =>
    rcases List.mem_append.mp hmem with h | h
    · exact (CodeTree.prefix_of_mem_codes h).length_le
    · exact (CodeTree.prefix_of_mem_codes h).length_le

theorem code_length_lt {m : Byte} {c : Bits} (hc : ctAt ct m = some c) : c.length < tree.leaves.length := by
  have hle := CodeTree.length_le_of_mem_codes ((hct m c).mp hc)
  rw [List.length_nil, Nat.zero_add] at hle
  exact Nat.lt_of_le_of_lt hle tree.depth_lt_leaves

theorem kraft_sum_of_perm {syms : List Byte} (hl : tree.leaves.Perm syms) {d : Nat} (hd : tree.depth ≤ d) :
    (syms.map fun m => 2 ^ (d - ((ctAt ct m).getD []).length)).sum = 2 ^ d := by
  refine Eq.trans ?_ (tree.kraft_sum [] (by simpa using hd))
  rw [← (hl.map _).sum_eq, ← tree.codes_map_fst [], List.map_map]
  refine congrArg List.sum (List.map_congr_left fun e he => ?_)
  simp only [Function.comp_apply, (hct e.1 e.2).mpr he, Option.getD_some]

end CodesOfTree

/-- Settles O17: the built tree's codes, read from the root; an empty table has none. -/
theorem codesArePrefixFreeAndComplete : Obligations.CodesArePrefixFreeAndComplete := by
  intro s hs hv
  obtain ⟨-, ⟨hcv, htv, -, -⟩, hft, htree, hct, -, -⟩ := hs
  have hft := hft (htv (hcv hv))
  have htree := htree (hcv hv)
  have hct := hct hv
  have hlen := s.tables.ft_length
  by_cases hne : s.tables.ft = []
  · have hnone : ∀ m, ctAt s.tables.ct m = none := fun m => by
      rw [hct, generateCodes_of_empty htree hne, ctAt_replicate_none]
    simp [hnone, hne, ← hlen]
  · obtain ⟨tree, hl, hcodes⟩ := exists_codeTree_of_ctOk hft htree hct hne
    have hleaves : tree.leaves.length = s.tables.ftN.val := by rw [hl.length_eq, List.length_map, hlen]
    have hmax := s.tables.ftN.isLt
    have hdepth := tree.depth_lt_leaves
    refine ⟨fun m => ?_, fun a b ca cb => not_prefix_of_codes hcodes, fun h2 m c => ?_, fun m c hc => ?_, fun _ => ?_⟩
    · rw [ctAt_isSome_iff_mem_leaves hcodes, hl.mem_iff]
    · exact code_length_pos hcodes (hleaves ▸ h2)
    · have := code_length_lt hcodes hc; omega
    · rw [← kraft_sum_of_perm hcodes hl (d := 255) (by omega), List.map_map]
      rfl

end Sys2Proof.Machine
end

section
/-! PROOFS. The host's 4-byte accesses: the address map and the registers' values (30_encoding.md rule R100), writes while IDLE,
the W1C of STATUS, irq and reset (10_state.md rules R25, R32–R39, R46–R48). -/

namespace Sys2Proof.Machine

/-! ### One access -/

theorem step_access {s : State} {a : Access} {rest : List Event} (h : s.events = .access a :: rest) :
    step s = .next ((s.setEvents rest).busAccess a) := by
  simp [step, h]

/-- An aligned 4-byte write acts at its place (R60, R67). -/
theorem State.busAccess_wordWrite (s : State) {addr : BitVec 22} (v : Word) (h : addr.toNat % 4 = 0) :
    s.busAccess { addr := addr, we := true, size := 2, wdata := v } =
      (s.placeWrite 4 v (placeOf addr)).setResponse { rdata := none, err := false } := by
  simp [State.busAccess, Access.legal, Access.bytes, h]

theorem step_wordWrite {s : State} {addr : BitVec 22} {v : Word} {rest : List Event}
    (hev : s.events = .access { addr := addr, we := true, size := 2, wdata := v } :: rest) (h : addr.toNat % 4 = 0) :
    step s = .next (((s.setEvents rest).placeWrite 4 v (placeOf addr)).setResponse { rdata := none, err := false }) := by
  rw [step_access hev, State.busAccess_wordWrite _ v h]

/-! ### Flag words -/

theorem flagValue_lt (l : List Bool) : l.foldr (fun b acc => b.toNat + 2 * acc) 0 < 2 ^ l.length := by
  induction l with
  | nil => simp
  | cons b l ih =>
    have := b.toNat_le
    simp only [List.foldr_cons, List.length_cons, Nat.pow_succ]
    omega

theorem flagWord_toNat {l : List Bool} (h : l.length ≤ 32) :
    (flagWord l).toNat = l.foldr (fun b acc => b.toNat + 2 * acc) 0 :=
  toNat_ofNat_of_lt (Nat.lt_of_lt_of_le (flagValue_lt l) (Nat.pow_le_pow_right (by omega) h))

/-- R25. -/
theorem State.statusWord_toNat (s : State) :
    s.statusWord.toNat = s.busy.toNat + 2 * s.done.toNat + 4 * s.err.toNat + 8 * s.rej.toNat := by
  rw [State.statusWord, flagWord_toNat (by simp)]
  simp only [List.foldr]
  omega

/-- R23. -/
theorem State.ctrlWord_toNat (s : State) : s.ctrlWord.toNat = s.ie.toNat + 2 * s.sym8.toNat := by
  rw [State.ctrlWord, flagWord_toNat (by simp)]
  simp only [List.foldr]
  omega

/-- R28. -/
theorem Valid.word_toNat (v : Valid) :
    v.word.toNat = v.ftV.toNat + 2 * v.treeV.toNat + 4 * v.ctV.toNat + 8 * v.encV.toNat + 16 * v.hdrV.toNat := by
  rw [Valid.word, flagWord_toNat (by simp)]
  simp only [List.foldr]
  omega

/-! ### The address map (R62, R100, R103, R104) -/

theorem placeOf_region {a : BitVec 22} (h : a.toNat < 0x100000) : placeOf a = regionPlace a.toNat := if_pos h

theorem placeOf_region_ofNat {n : Nat} (h : n < 0x100000) : placeOf (BitVec.ofNat 22 n) = regionPlace n := by
  have hn : (BitVec.ofNat 22 n).toNat = n := toNat_ofNat_of_lt (by omega)
  rw [placeOf_region (by omega), hn]

theorem regAt_codeBits {k : Nat} (h : k < 8) : regAt (0x050 + 4 * k) = some (.codeBits k) := by
  interval_cases k <;> rfl

theorem placeOf_codeBits {k : Nat} (h : k < 8) : placeOf (BitVec.ofNat 22 (0x050 + 4 * k)) = .reg (.codeBits k) := by
  rw [placeOf_region_ofNat (by omega), regionPlace, if_neg (by omega), if_neg (by omega), regAt_codeBits h]

theorem placeOf_ftEntry {k : Nat} (h : k < 256) : placeOf (BitVec.ofNat 22 (0x400 + 4 * k)) = .ftEntry k := by
  rw [placeOf_region_ofNat (by omega), regionPlace, if_pos (by omega)]
  congr 1
  omega

theorem placeOf_nodeFreq {i : Nat} (h : i < 511) : placeOf (BitVec.ofNat 22 (0x1000 + 8 * i)) = .nodeFreq i := by
  rw [placeOf_region_ofNat (by omega), regionPlace, if_neg (by omega), if_pos (by omega), if_pos (by omega)]
  congr 1
  omega

theorem placeOf_nodeInfo {i : Nat} (h : i < 511) : placeOf (BitVec.ofNat 22 (0x1004 + 8 * i)) = .nodeInfo i := by
  rw [placeOf_region_ofNat (by omega), regionPlace, if_neg (by omega), if_pos (by omega), if_neg (by omega)]
  congr 1
  omega

/-- No register stands at or beyond 0x070 (R100). -/
theorem regAt_eq_none {off : Nat} (h : 0x070 ≤ off) : regAt off = none := by
  unfold regAt
  split <;> simp <;> omega

/-- R62, R64: what names no register, window or buffer. -/
theorem placeOf_nothing {a : BitVec 22}
    (h : (0x070 ≤ a.toNat ∧ a.toNat < 0x400) ∨ (0x800 ≤ a.toNat ∧ a.toNat < 0x1000) ∨
      (0x1FF8 ≤ a.toNat ∧ a.toNat < 0x100000) ∨ 0x300000 ≤ a.toNat) : placeOf a = .nothing := by
  by_cases hr : a.toNat < 0x100000
  · rw [placeOf_region hr, regionPlace, if_neg (by omega), if_neg (by omega), regAt_eq_none (by omega)]
  · rw [placeOf, if_neg hr, if_neg (by omega), if_neg (by omega)]

/-! ### Writes while IDLE (R71) -/

/-- The registers a host write can change (R23, R25, R30, R31, R37, R205). -/
def Reg.writable : Reg → Bool
  | .ctrl | .cmd | .status | .msgLen | .contLen | .codeSel => true
  | _ => false

/-- Where the writable registers stand (R100). -/
theorem writable_eq_false_of_regAt {off : Nat} {r : Reg} (h : off / 4 ∉ [1, 2, 3, 7, 8, 18]) (hr : regAt off = some r) :
    r.writable = false := by
  unfold regAt at hr
  split at hr <;> cases hr <;> simp_all [Reg.writable]

theorem State.placeWrite_readOnly (s : State) (n : Nat) (v : Word) {r : Reg} (h : r.writable = false) :
    s.placeWrite n v (.reg r) = s := by
  cases r <;> simp_all [Reg.writable, State.placeWrite, State.idleWrite]

/-- A write in the register region but at a writable register changes nothing (R64, R68). -/
theorem State.placeWrite_regionPlace (s : State) (n : Nat) (v : Word) {off : Nat}
    (h : off / 4 ∉ [1, 2, 3, 7, 8, 18]) : s.placeWrite n v (regionPlace off) = s := by
  unfold regionPlace
  split
  · simp [State.placeWrite, State.idleWrite]
  split
  · split <;> simp [State.placeWrite, State.idleWrite]
  split
  · rename_i r hr
    exact s.placeWrite_readOnly n v (writable_eq_false_of_regAt h hr)
  · simp [State.placeWrite, State.idleWrite]

section Idle

variable {s : State} (hb : s.busy = false) (n : Nat) (v : Word)

include hb

theorem State.placeWrite_ctrl_of_idle :
    s.placeWrite n v (.reg .ctrl) = (s.setIe (v.getLsbD 0)).setSym8 (v.getLsbD 1) := by
  simp [State.placeWrite, State.writeCtrl, hb]

theorem State.placeWrite_msgLen_of_idle : s.placeWrite n v (.reg .msgLen) = s.setMsgLen v := by
  simp [State.placeWrite, State.idleWrite, hb]

theorem State.placeWrite_contLen_of_idle : s.placeWrite n v (.reg .contLen) = s.setContLen v := by
  simp [State.placeWrite, State.idleWrite, hb]

theorem State.placeWrite_codeSel_of_idle : s.placeWrite n v (.reg .codeSel) = s.setCodeSel (v.extractLsb' 0 8) := by
  simp [State.placeWrite, State.idleWrite, hb]

end Idle

/-- Settles O46: the four stored fields by their offsets, and everything else by `placeWrite_regionPlace`. -/
theorem idleRegisterWritesStoreTheirFields : Obligations.IdleRegisterWritesStoreTheirFields := by
  intro s off v rest hi hev
  have hb : (s.setEvents rest).busy = false := State.busy_idle hi
  refine ⟨fun h => ?_, fun h => ?_, fun h => ?_, fun h => ?_, fun hlt hal hmem => ?_⟩
  · rw [step_wordWrite hev (by rw [h]; rfl), h, show placeOf 0x004 = .reg .ctrl from rfl,
      State.placeWrite_ctrl_of_idle hb]
    rfl
  · rw [step_wordWrite hev (by rw [h]; rfl), h, show placeOf 0x01C = .reg .msgLen from rfl,
      State.placeWrite_msgLen_of_idle hb]
    rfl
  · rw [step_wordWrite hev (by rw [h]; rfl), h, show placeOf 0x020 = .reg .contLen from rfl,
      State.placeWrite_contLen_of_idle hb]
    rfl
  · rw [step_wordWrite hev (by rw [h]; rfl), h, show placeOf 0x048 = .reg .codeSel from rfl,
      State.placeWrite_codeSel_of_idle hb]
    rfl
  · have hoff : off.toNat / 4 ∉ [1, 2, 3, 7, 8, 18] := by
      simp only [List.mem_cons, List.not_mem_nil, or_false] at hmem ⊢
      omega
    rw [step_wordWrite hev hal, placeOf_region hlt, State.placeWrite_regionPlace _ _ _ hoff]
    rfl

/-! ### STATUS and irq -/

/-- Settles O40: the access at 0x00C is legal and its place is STATUS. -/
theorem statusWriteClearsTheWrittenOnes : Obligations.StatusWriteClearsTheWrittenOnes :=
  fun s _ _ hev => ⟨step_wordWrite hev (by decide), s.statusWord_toNat⟩

/-- Every command completes with DONE set and IE kept, so irq shows IE (R46, R206). -/
theorem irq_of_exec {i : Instr} {s t : State} (h : exec i s = .next t) : t.irq = s.ie := by
  rw [exec_eq] at h
  cases h
  obtain ⟨hie, -⟩ := stageOf_sameControl i s
  simp [State.irq, hie]

/-- Settles O41: a completion by `irq_of_exec`, the three host writes by the place each one names. -/
theorem irqIsEnabledDone : Obligations.IrqIsEnabledDone := by
  refine ⟨fun _ => rfl, fun _ _ _ => irq_of_exec,
    fun s t v rest hst => ⟨fun hi hl hev => ?_, fun hev => ?_, fun hev => ?_⟩, fun _ _ => rfl⟩
  · rw [step_wordWrite hev (by decide), show placeOf 0x008 = .reg .cmd from rfl] at hst
    cases hst
    rcases (s.setEvents rest).writeCmd_cases v with ⟨-, hc⟩ | ⟨c, hc, -⟩
    · rcases (s.setEvents rest).accept_cases v with ⟨-, ha⟩ | ⟨hl', -⟩
      · simp [State.placeWrite, hc, ha, State.irq]
      · exact absurd hl (by rw [← opcOf, hl']; nofun)
    · rw [State.setEvents_engine, hi] at hc
      cases hc
  · rw [step_wordWrite hev (by decide), show placeOf 0x00C = .reg .status from rfl] at hst
    cases hst
    simp [State.placeWrite, State.irq, Bool.and_assoc]
  · rw [step_wordWrite hev (by decide), show placeOf 0x004 = .reg .ctrl from rfl] at hst
    cases hst
    simp only [State.placeWrite, State.writeCtrl]
    split <;> rfl

/-! ### Reads -/

theorem State.selectedCode_eq_none {s : State} (h : s.valid.ctV = false ∨ ctAt s.tables.ct s.codeSel = none) :
    s.selectedCode = none := by
  unfold State.selectedCode
  rcases h with h | h <;> simp [h]

/-- With no code shown the nine CODE registers read 0 (R38, R39). -/
theorem State.codeRegisters_of_no_code {s : State} (h : s.selectedCode = none) :
    s.placeRead 4 (placeOf 0x04C) = 0 ∧
      ∀ k, k < 8 → s.placeRead 4 (placeOf (BitVec.ofNat 22 (0x050 + 4 * k))) = 0 := by
  refine ⟨?_, fun k hk => ?_⟩
  · change s.codeInfo = 0
    simp [State.codeInfo, h]
  · rw [placeOf_codeBits hk]
    change s.codeBits k = 0
    simp [State.codeBits, h]

theorem ErrorCode.byte_setWidth (c : ErrorCode) :
    (c.byte.setWidth 32 : Word) =
      (match c with
        | .none => 0x00 | .illegalCmd => 0x01 | .notReady => 0x02 | .badLength => 0x03 | .symbolWidth => 0x04
        | .freqOverflow => 0x05 | .unknownSymbol => 0x06 | .corruptHeader => 0x07 | .malformedStream => 0x08
        | .capacity => 0x09) := by
  cases c <;> rfl

/-- Settles O47, offset by offset: the literal ones by evaluating the address map, the ranges by the `placeOf` lemmas. -/
theorem gatedReadsFollowTheirValidBits : Obligations.GatedReadsFollowTheirValidBits := by
  intro s
  refine ⟨rfl, s.ctrlWord_toNat, ?_, s.statusWord_toNat, ?_, rfl, s.valid.word_toNat, rfl, rfl, rfl, rfl, rfl, rfl, rfl,
    rfl, rfl, rfl, rfl, ?_, fun h => ?_, fun h k hk => ?_, fun h i hi => ⟨?_, ?_⟩, fun a _ h => ?_⟩
  · exact BitVec.toNat_setWidth_of_le (by decide)
  · exact s.errCode.byte_setWidth
  · exact BitVec.toNat_setWidth_of_le (by decide)
  · exact State.codeRegisters_of_no_code (State.selectedCode_eq_none (.inl h))
  · simp [placeOf_ftEntry hk, State.placeRead, State.ftWord, h]
  · simp [placeOf_nodeFreq hi, State.placeRead, State.nodeWord, h]
  · simp [placeOf_nodeInfo hi, State.placeRead, State.nodeWord, h]
  · rw [placeOf_nothing h]
    rfl

/-! ### The CODE registers (R38, R39) -/

theorem bitsToNat_concat (p : Bits) (b : Bool) : bitsToNat (p ++ [b]) = 2 * bitsToNat p + b.toNat := by
  simp [bitsToNat]

/-- Bit j of the number a bit string writes is its j-th element from the right (R14). -/
theorem testBit_bitsToNat (p : Bits) (j : Nat) : (bitsToNat p).testBit j = p.reverse.getD j false := by
  induction p using List.reverseRecOn generalizing j with
  | nil => simp [bitsToNat]
  | append_singleton p b ih =>
    rw [bitsToNat_concat, List.reverse_concat]
    cases j with
    | zero => cases b <;> simp [Nat.testBit_zero]
    | succ j =>
      have hhalf : (2 * bitsToNat p + b.toNat) / 2 = bitsToNat p := by have := b.toNat_le; omega
      rw [Nat.testBit_succ, hhalf, ih, List.getD_cons_succ]

/-- The 32 bits at 32k of a code, the missing ones 0. -/
def codeSlice (c : Bits) (k : Nat) : Bits :=
  (c.drop (32 * k)).take 32 ++ List.replicate (32 - ((c.drop (32 * k)).take 32).length) false

theorem codeWord_eq (c : Bits) (k : Nat) : codeWord c k = BitVec.ofNat 32 (bitsToNat (codeSlice c k)) := rfl

theorem codeSlice_length (c : Bits) (k : Nat) : (codeSlice c k).length = 32 := by
  simp only [codeSlice, List.length_append, List.length_replicate, List.length_take]
  omega

theorem codeSlice_getD (c : Bits) (k : Nat) {j : Nat} (h : j < 32) :
    (codeSlice c k).getD j false = c.getD (32 * k + j) false := by
  simp only [codeSlice, List.getD_eq_getElem?_getD, List.getElem?_append, List.getElem?_take, List.getElem?_drop,
    List.getElem?_replicate, if_pos h]
  split
  · rfl
  · rename_i hj
    simp only [List.length_take, List.length_drop] at hj
    rw [List.getElem?_eq_none (by omega)]
    split <;> rfl

/-- R39. -/
theorem codeWord_getLsbD (c : Bits) (k : Nat) {b : Nat} (h : b < 32) :
    (codeWord c k).getLsbD b = c.getD (32 * k + (31 - b)) false := by
  rw [codeWord_eq, BitVec.getLsbD_ofNat, testBit_bitsToNat, ← codeSlice_getD c k (show 31 - b < 32 by omega)]
  simp only [h, decide_true, Bool.true_and, List.getD_eq_getElem?_getD]
  rw [List.getElem?_reverse (by rw [codeSlice_length]; exact h), codeSlice_length]

/-- R38: bit 31 and the length do not overlap. -/
theorem codeInfo_toNat {n : Nat} (h : n ≤ 255) :
    (0x80000000#32 ||| (BitVec.ofNat 8 n).setWidth 32).toNat = 2 ^ 31 + n := by
  have hn : ((BitVec.ofNat 8 n).setWidth 32).toNat = n := by
    rw [BitVec.toNat_setWidth_of_le (by decide), toNat_ofNat_of_lt (by omega)]
  have hor := Nat.two_pow_add_eq_or_of_lt (i := 31) (b := n) (by omega) 1
  rw [BitVec.toNat_or, hn]
  exact hor.symm

/-- Settles O49: CODE_INFO by `codeInfo_toNat`, each CODE_BITS word by `codeWord_getLsbD`. -/
theorem codeRegistersShowTheSelectedCode : Obligations.CodeRegistersShowTheSelectedCode := by
  refine fun s => ⟨fun c hv hc hlen => ?_, fun h => State.codeRegisters_of_no_code (State.selectedCode_eq_none h)⟩
  have hsel : s.selectedCode = some c := by simp [State.selectedCode, hv, hc]
  refine ⟨?_, fun k b hk hb => ?_⟩
  · change s.codeInfo.toNat = _
    simp only [State.codeInfo, hsel]
    exact codeInfo_toNat hlen
  · rw [placeOf_codeBits hk]
    change (s.codeBits k).getLsbD b = _
    simp only [State.codeBits, hsel]
    exact codeWord_getLsbD c k hb

/-! ### Reset (R47, R48) -/

/-- With VALID clear every gated register and window reads its gated value (R32–R39, R103, R104). -/
theorem State.tablesHidden_of_clear {s : State} (h : s.valid = Valid.clear) : s.tablesHidden := by
  have hsel : s.selectedCode = none := State.selectedCode_eq_none (.inl (by rw [h]; rfl))
  simp [State.tablesHidden, State.regRead, State.placeRead, State.ftWord, State.nodeWord, State.codeInfo, State.codeBits,
    hsel, h, Valid.clear]

theorem State.resetValues_resetBlock (s : State) : s.resetBlock.resetValues := by
  unfold State.resetValues
  refine ⟨rfl, rfl, rfl, rfl, rfl, rfl, rfl, rfl, rfl, ?_, rfl, rfl, rfl, ?_, rfl⟩ <;> rfl

/-- Settles O50: both states have the listed values by definition, and VALID clear hides the storage. -/
theorem resetLeavesTheListedValues : Obligations.ResetLeavesTheListedValues := by
  refine ⟨⟨by decide, State.tablesHidden_of_clear rfl⟩, fun s rest hev => ?_⟩
  refine ⟨(s.setEvents rest).resetBlock, by simp [step, hev], State.resetValues_resetBlock _,
    State.tablesHidden_of_clear rfl, rfl, rfl⟩

end Sys2Proof.Machine
end

section
/-! PROOFS. COMPRESS shows nothing of earlier tables (10_state.md rule R45, 46_top.md rule R191): two states that differ only in
storage no read shows stay so through COMPRESS's stages. -/

namespace Sys2Proof.Machine

/-! ### Storage that reads alike -/

/-- Two gated storages that no read tells apart while VALID is `v` (R32–R39, R103, R104): what a set bit shows is the same,
and a shown tree is the table's own. -/
structure Tables.Alike (v : Valid) (t t' : Tables) : Prop where
  chain : v.chain
  ft : v.ftV = true → t.ft = t'.ft
  tree : v.treeV = true → t.treeOk ∧ t'.treeOk
  ct : v.ctV = true → t.ct = t'.ct
  bits : (v.encV || v.hdrV) = true → t.pad = t'.pad ∧ t.bitLen = t'.bitLen
  pay : v.hdrV = true → t.payOff = t'.payOff ∧ t.payLen = t'.payLen

theorem Tables.Alike.of_clear (t t' : Tables) : Tables.Alike Valid.clear t t' :=
  ⟨Valid.chain_clear, nofun, nofun, nofun, nofun, nofun⟩

section Alike

variable {v : Valid} {t t' : Tables} (h : Tables.Alike v t t')

include h

theorem Tables.Alike.ft_of_tree (hv : v.treeV = true) : t.ft = t'.ft := h.ft (h.chain.2.1 hv)

theorem Tables.Alike.ft_of_ct (hv : v.ctV = true) : t.ft = t'.ft := h.ft_of_tree (h.chain.1 hv)

theorem Tables.Alike.ft_of_enc (hv : v.encV = true) : t.ft = t'.ft := h.ft_of_ct (h.chain.2.2.1 hv)

/-- The arena and the root are functions of the table (R140). -/
theorem Tables.Alike.tree_eq (hv : v.treeV = true) : t.arena = t'.arena ∧ t.root = t'.root := by
  obtain ⟨ht, ht'⟩ := h.tree hv
  rw [Tables.treeOk_iff, h.ft_of_tree hv] at ht
  rw [Tables.treeOk_iff] at ht'
  exact ⟨ht.1.trans ht'.1.symm, ht.2.trans ht'.2.symm⟩

/-- So are the codes, whatever stands in the arena's don't-care entries (R150). -/
theorem Tables.Alike.codes_eq (hv : v.treeV = true) : generateCodes t.nodes t.root = generateCodes t'.nodes t'.root :=
  generateCodes_congr (h.tree hv).1 (h.tree hv).2 (h.ft_of_tree hv)

/-- R141: BUILD's trees are the tables' own. -/
theorem Tables.Alike.afterBuild (hv : v.ftV = true) :
    Tables.Alike v.afterBuild (t.setTree (buildTree t.ft)) (t'.setTree (buildTree t'.ft)) :=
  ⟨Valid.chain_afterBuild h.chain hv, h.ft, fun _ => ⟨t.treeOk_setTree, t'.treeOk_setTree⟩, nofun,
    fun hb => h.bits (by simp_all [Valid.afterBuild]), h.pay⟩

theorem Tables.Alike.afterGen (hv : v.treeV = true) :
    Tables.Alike v.afterGen { t with ct := generateCodes t.nodes t.root }
      { t' with ct := generateCodes t'.nodes t'.root } :=
  ⟨Valid.chain_afterGen h.chain hv, h.ft, h.tree, fun _ => h.codes_eq hv,
    fun hb => h.bits (by simp_all [Valid.afterGen]), h.pay⟩

theorem Tables.Alike.afterEncode (hv : v.ctV = true) (bitLen : Word) (pad : BitVec 3) :
    Tables.Alike v.afterEncode { t with bitLen := bitLen, pad := pad } { t' with bitLen := bitLen, pad := pad } :=
  ⟨Valid.chain_afterEncode h.chain hv, h.ft, h.tree, h.ct, fun _ => ⟨rfl, rfl⟩, nofun⟩

theorem Tables.Alike.afterEncodeFailure : Tables.Alike v.afterEncodeFailure t t' :=
  ⟨Valid.chain_afterEncodeFailure h.chain, h.ft, h.tree, h.ct,
    fun hb => h.bits (by simp_all [Valid.afterEncodeFailure]), h.pay⟩

theorem Tables.Alike.afterWriteHdr (hv : v.encV = true) (off len : Word) :
    Tables.Alike v.afterWriteHdr { t with payOff := off, payLen := len } { t' with payOff := off, payLen := len } :=
  ⟨Valid.chain_afterWriteHdr h.chain hv, h.ft, h.tree, h.ct, fun _ => h.bits (by simp [hv]), fun _ => ⟨rfl, rfl⟩⟩

end Alike

theorem Tables.ftN_eq_of_ft_eq {t t' : Tables} (h : t.ft = t'.ft) : t.ftN = t'.ftN :=
  Fin.ext (by rw [← t.ft_length, ← t'.ft_length, h])

theorem Tables.arena_length (t : Tables) : t.arena.length = t.nodeCnt.val := by
  have := t.nodeCnt.isLt
  simp only [Tables.arena, List.length_take, Vector.length_toList]; omega

/-- The node window shows the arena (R104). -/
theorem State.nodeWord_eq (s : State) (f : Node → Word) (i : Nat) :
    s.nodeWord f i = if s.valid.treeV then (s.tables.arena[i]?.map f).getD 0 else 0 := by
  cases hv : s.valid.treeV with
  | false => simp [State.nodeWord, hv]
  | true =>
    by_cases hi : i < s.tables.nodeCnt.val
    · have := s.tables.nodeCnt.isLt
      have hlt : i < s.tables.arena.length := by rw [Tables.arena_length]; exact hi
      have hn : s.tables.arena[(BitVec.ofNat 9 i).toNat]? = some s.tables.arena[i] := by
        rw [toNat_ofNat_of_lt (by omega), List.getElem?_eq_getElem hlt]
      simp [State.nodeWord, hv, hi, nodeAt_of_arena hn, List.getElem?_eq_getElem hlt]
    · have hle : s.tables.arena.length ≤ i := by rw [Tables.arena_length]; omega
      simp [State.nodeWord, hv, hi, List.getElem?_eq_none hle]

/-- A gated value is the same where what the set bit shows is. -/
theorem gated_congr {α : Type} {b : Bool} {x y z : α} (h : b = true → x = y) :
    (if b then x else z) = if b then y else z :=
  ite_congr rfl h fun _ => rfl

section Reads

variable {s : State} {t' : Tables} (h : Tables.Alike s.valid s.tables t')

include h

theorem State.selectedCode_congr : s.selectedCode = (s.setTables t').selectedCode :=
  gated_congr fun hv => by rw [h.ct hv]; rfl

theorem State.regRead_congr (r : Reg) : s.regRead r = (s.setTables t').regRead r := by
  have hsel := State.selectedCode_congr h
  cases r with
  | numSyms => exact gated_congr fun hv => by rw [Tables.ftN_eq_of_ft_eq (h.ft hv)]; rfl
  | pad => exact gated_congr fun hv => by rw [(h.bits hv).1]; rfl
  | bitLen => exact gated_congr fun hv => (h.bits hv).2
  | payOff => exact gated_congr fun hv => (h.pay hv).1
  | payLen => exact gated_congr fun hv => (h.pay hv).2
  | root => exact gated_congr fun hv => by rw [(h.tree_eq hv).2]; rfl
  | nodeCnt => exact gated_congr fun hv => by rw [← Tables.arena_length, (h.tree_eq hv).1, Tables.arena_length]; rfl
  | codeInfo => simp only [State.regRead, State.codeInfo, hsel]
  | codeBits k => simp only [State.regRead, State.codeBits, hsel]
  | _ => rfl

theorem State.ftWord_congr (k : Nat) : s.ftWord k = (s.setTables t').ftWord k :=
  gated_congr fun hv => by rw [h.ft hv]; rfl

theorem State.nodeWord_congr (f : Node → Word) (i : Nat) : s.nodeWord f i = (s.setTables t').nodeWord f i := by
  rw [State.nodeWord_eq, State.nodeWord_eq]
  exact gated_congr fun hv => by rw [(h.tree_eq hv).1]; rfl

/-- No read tells the two storages apart. -/
theorem State.placeRead_congr (n : Nat) (p : Place) : s.placeRead n p = (s.setTables t').placeRead n p := by
  cases p with
  | reg r => exact State.regRead_congr h r
  | ftEntry k => exact State.ftWord_congr h k
  | nodeFreq i => exact State.nodeWord_congr h _ i
  | nodeInfo i => exact State.nodeWord_congr h _ i
  | _ => rfl

end Reads

/-! ### Stages that go alike -/

/-- The same outcome, but for storage no read shows. -/
inductive Stage.Alike : Stage → Stage → Prop
  | ok {s : State} {t' : Tables} (h : Tables.Alike s.valid s.tables t') : Stage.Alike (.ok s) (.ok (s.setTables t'))
  | err {s : State} {t' : Tables} {e : CmdError} (h : Tables.Alike s.valid s.tables t') :
    Stage.Alike (.err s e) (.err (s.setTables t') e)

/-- A stage that goes alike from any two states that differ in storage no read shows. -/
def GoesAlike (f : State → Stage) : Prop :=
  ∀ (s : State) (t' : Tables), Tables.Alike s.valid s.tables t' → Stage.Alike (f s) (f (s.setTables t'))

theorem Stage.Alike.andThen {r r' : Stage} {f : State → Stage} (h : Stage.Alike r r') (hf : GoesAlike f) :
    Stage.Alike (r.andThen f) (r'.andThen f) := by
  cases h with
  | ok h => exact hf _ _ h
  | err h => exact .err h

theorem Stage.Alike.onError_setContLen {r r' : Stage} (h : Stage.Alike r r') (n : Word) :
    Stage.Alike (r.onError fun s => s.setContLen n) (r'.onError fun s => s.setContLen n) := by
  cases h with
  | ok h => exact .ok h
  | err h => exact .err (s := State.setContLen _ n) h

theorem Stage.Alike.complete {r r' : Stage} (h : Stage.Alike r r') :
    ∃ t', r'.complete = r.complete.setTables t' ∧ Tables.Alike r.complete.valid r.complete.tables t' := by
  cases h with
  | ok h => exact ⟨_, rfl, h⟩
  | err h => exact ⟨_, rfl, h⟩

/-- `require` looks at VALID only (R203). -/
theorem GoesAlike.require {f : State → Stage} {mask : Word}
    (hf : ∀ (s : State) (t' : Tables), s.valid.missing mask = 0 → Tables.Alike s.valid s.tables t' →
      Stage.Alike (f s) (f (s.setTables t'))) : GoesAlike (require mask f) := by
  intro s t' h
  by_cases hm : s.valid.missing mask = 0
  · rw [require_ok hm, require_ok (s := s.setTables t') hm]
    exact hf s t' hm h
  · unfold Machine.require
    rw [if_neg hm, if_neg (show ¬(s.setTables t').valid.missing mask = 0 from hm)]
    exact .err h

/-- COUNT reads neither the tables nor VALID, and stores or clears both (R131). -/
theorem stageCount_alike (s : State) (old : Tables) (v : Valid) :
    Stage.Alike (stageCount s) (stageCount ((s.setTables old).setValid v)) := by
  have lose : ∀ e, Stage.Alike (loseTablesWith s e) (loseTablesWith ((s.setTables old).setValid v) e) := fun e =>
    .err (s := s.loseTables.setValid Valid.clear) (t' := Config.freeTables s.draws) (Tables.Alike.of_clear _ _)
  have hmsg : ((s.setTables old).setValid v).message = s.message := rfl
  rcases stageCount_cases s with ⟨hl, hs⟩ | ⟨hl, e, hc, hs⟩ | ⟨hl, hc, hs⟩
  · simpa [stageCount, hl] using lose _
  · simpa [stageCount, Nat.not_lt.mpr hl, hmsg, hc] using lose e
  · have hs' : stageCount ((s.setTables old).setValid v) =
        .ok ((s.setTables (old.setFt (countFrequencies s.message))).setValid Valid.afterCount) := by
      simp only [stageCount, State.setValid_caps, State.setTables_caps, State.setValid_msgLen, State.setTables_msgLen,
        State.setValid_sym8, State.setTables_sym8, hmsg, hc, if_neg (Nat.not_lt.mpr hl)]
      rfl
    have hft : ∀ t : Tables, (t.setFt (countFrequencies s.message)).ft = countFrequencies s.message := fun t =>
      t.ft_setFt_of_bounds (countFrequencies_nodup _) (countFrequencies_bounds hc)
    rw [hs, hs']
    refine .ok (s := State.setValid _ _) (t' := old.setFt (countFrequencies s.message))
      ⟨Valid.chain_afterCount, fun _ => ?_, nofun, nofun, nofun, nofun⟩
    exact (hft s.tables).trans (hft old).symm

theorem stageBuild_goesAlike : GoesAlike stageBuild :=
  GoesAlike.require fun _ _ hm h => .ok (s := State.setValid _ _) (h.afterBuild ((Valid.missing_ft _).mp hm))

theorem stageGen_goesAlike : GoesAlike stageGen :=
  GoesAlike.require fun _ _ hm h => .ok (s := State.setValid _ _) (h.afterGen ((Valid.missing_tree _).mp hm))

/-- Pass 2 reads the codes and FT_N, and stores the descriptors it computes (R163). -/
theorem encodeWrite_alike {s : State} {t' : Tables} (h : Tables.Alike s.valid s.tables t') (hv : s.valid.ctV = true)
    (n : Nat) : Stage.Alike (encodeWrite s n) (encodeWrite (s.setTables t') n) := by
  have hs' : encodeWrite (s.setTables t') n =
      .ok ((((s.contWrite (headerLen s.tables.ftN.val) (pack (encodeBits s.tables.ct s.message)).1).setTables
        { t' with
          bitLen := BitVec.ofNat 32 n
          pad := BitVec.ofNat 3 (pack (encodeBits s.tables.ct s.message)).2 }).setValid s.valid.afterEncode)) := by
    rw [h.ct hv, Tables.ftN_eq_of_ft_eq (h.ft_of_ct hv)]
    rfl
  rw [hs']
  exact .ok (s := State.setValid _ _) (h.afterEncode hv _ _)

theorem encodeFails_alike {s : State} {t' : Tables} (h : Tables.Alike s.valid s.tables t') (e : CmdError) :
    Stage.Alike (encodeFails s e) (encodeFails (s.setTables t') e) :=
  .err (s := s.setValid _) h.afterEncodeFailure

theorem stageEncode_goesAlike : GoesAlike stageEncode :=
  GoesAlike.require fun s t' hm h => by
    have hv := (Valid.missing_ct _).mp hm
    have hct := h.ct hv
    have hftN := Tables.ftN_eq_of_ft_eq (h.ft_of_ct hv)
    have hmsg : (s.setTables t').message = s.message := rfl
    by_cases hl : s.caps.msgCap < s.msgLen.toNat
    · simpa [encodeBody, hl] using encodeFails_alike h _
    · cases hz : sizeLoop s.sym8 s.tables.ct s.message 0 0 with
      | error e => simpa [encodeBody, hl, hmsg, ← hct, hz] using encodeFails_alike h e
      | ok total =>
        by_cases hc : s.caps.contCap < headerLen s.tables.ftN.val + ceil8 total
        · simpa [encodeBody, hl, hmsg, ← hct, ← hftN, hz, hc] using encodeFails_alike h _
        · simpa [encodeBody, hl, hmsg, ← hct, ← hftN, hz, hc] using encodeWrite_alike h hv total

/-- WRITE_HDR reads the table, PAD_R and BITLEN_R, and stores the payload's place (R171). -/
theorem writeHdrBody_alike {s : State} {t' : Tables} (h : Tables.Alike s.valid s.tables t') (hv : s.valid.encV = true) :
    Stage.Alike (writeHdrBody s) (writeHdrBody (s.setTables t')) := by
  have hft := h.ft_of_enc hv
  obtain ⟨hpad, hbit⟩ := h.bits (by simp [hv])
  have hs' : writeHdrBody (s.setTables t') =
      .ok ((((s.contWrite 0 (headerBytes s.tables.ft (s.tables.pad.setWidth 8))).setContLen
        (BitVec.ofNat 32 (headerLen s.tables.ftN.val + ceil8 s.tables.bitLen.toNat))).setTables
        { t' with
          payOff := BitVec.ofNat 32 (headerLen s.tables.ftN.val)
          payLen := BitVec.ofNat 32 (ceil8 s.tables.bitLen.toNat) }).setValid s.valid.afterWriteHdr) := by
    rw [hft, Tables.ftN_eq_of_ft_eq hft, hpad, hbit]
    rfl
  rw [hs']
  exact .ok (s := State.setValid _ _) (h.afterWriteHdr hv _ _)

theorem stageWriteHdr_goesAlike : GoesAlike stageWriteHdr :=
  GoesAlike.require fun _ _ hm h => writeHdrBody_alike h ((Valid.missing_enc _).mp hm)

/-- COMPRESS from two states that differ only in the tables and VALID. -/
theorem stageCompress_alike (s : State) (old : Tables) (v : Valid) :
    Stage.Alike (stageCompress s) (stageCompress ((s.setTables old).setValid v)) :=
  ((((stageCount_alike s old v).andThen stageBuild_goesAlike).andThen stageGen_goesAlike).andThen
    stageEncode_goesAlike |>.andThen stageWriteHdr_goesAlike).onError_setContLen 0

/-- Settles O35: the stages go alike, so the results differ only in storage that no read shows. -/
theorem compressIgnoresStaleTables : Obligations.CompressIgnoresStaleTables := by
  intro s old v
  obtain ⟨t', ht, ha⟩ := (stageCompress_alike s old v).complete
  refine ⟨_, _, exec_eq .compress s, exec_eq .compress ((s.setTables old).setValid v), ?_⟩
  simp only [stageOf, ht]
  exact ⟨rfl, rfl, rfl, rfl, rfl, rfl, rfl, rfl, fun n p => State.placeRead_congr ha n p⟩

end Sys2Proof.Machine
end

section
/-! PROOFS. The host's accesses of every width (20_memory.md rules R60–R71): which are legal, what a legal write does while
BUSY, what a read answers, and the bytes a window access writes and reads. -/

namespace Sys2Proof.Machine

/-! ### Width and alignment (R60, R67) -/

theorem Access.bytes_eq (a : Access) : a.bytes = if a.size = 3#2 then none else some (2 ^ a.size.toNat) := by
  have widths : ∀ z : BitVec 2, (if z = 0 then some 1 else if z = 1 then some 2 else if z = 2 then some 4 else none) =
    if z = 3#2 then none else some (2 ^ z.toNat) := by decide
  exact widths a.size

/-- R67: a size that exists, natural alignment, and four bytes in the register region. -/
theorem Access.legal_iff (a : Access) : a.legal = true ↔
    a.size ≠ 3#2 ∧ a.addr.toNat % 2 ^ a.size.toNat = 0 ∧ (0x100000 ≤ a.addr.toNat ∨ a.size = 2#2) := by
  have four : ∀ z : BitVec 2, 2 ^ z.toNat = 4 ↔ z = 2#2 := by decide
  by_cases h : a.size = 3#2
  · simp [Access.legal, Access.bytes_eq, h]
  · simp [Access.legal, Access.bytes_eq, h, four]

theorem Access.bytes_of_legal {a : Access} (h : a.legal = true) : a.bytes = some (2 ^ a.size.toNat) := by
  obtain ⟨hsize, -, -⟩ := a.legal_iff.mp h
  rw [Access.bytes_eq, if_neg hsize]

/-- A legal access in the register region stands at a multiple of 4. -/
theorem Access.aligned_of_legal {a : Access} (h : a.legal = true) (hr : a.addr.toNat < 0x100000) :
    a.addr.toNat % 4 = 0 := by
  obtain ⟨-, halign, hwin | hsize⟩ := a.legal_iff.mp h
  · omega
  · rwa [hsize] at halign

/-! ### The step that performs an access -/

section Step

variable {s : State} {a : Access} {n : Nat} {rest : List Event} (hev : s.events = .access a :: rest)

include hev

theorem step_illegal (hl : a.legal = false) :
    step s = .next ((s.setEvents rest).setResponse { rdata := if a.we then none else some 0, err := true }) := by
  simp [step_access hev, State.busAccess, hl]

theorem step_write (hw : a.we = true) (hl : a.legal = true) (hn : a.bytes = some n) :
    step s = .next (((s.setEvents rest).placeWrite n a.wdata (placeOf a.addr)).setResponse
      { rdata := none, err := false }) := by
  simp [step_access hev, State.busAccess, hw, hl, hn]

theorem step_read (hw : a.we = false) (hl : a.legal = true) (hn : a.bytes = some n) :
    step s = .next ((s.setEvents rest).busRead n (placeOf a.addr)) := by
  simp [step_access hev, State.busAccess, hw, hl, hn]

end Step

/-- Settles O44: each of the three cases breaks a clause of `Access.legal_iff`. -/
theorem misalignedAccessesHaveNoEffect : Obligations.MisalignedAccessesHaveNoEffect := by
  intro s a rest hev hbad
  have hl : a.legal = false := by
    rw [Bool.eq_false_iff, ne_eq, Access.legal_iff]
    rintro ⟨hsize, halign, hwidth⟩
    rcases hbad with h3 | ⟨hr, h2 | h4⟩ | ⟨-, -, hmis⟩
    · exact hsize h3
    · exact hwidth.elim (by omega) h2
    · rw [hwidth.resolve_left (by omega)] at halign
      exact h4 halign
    · exact hmis halign
  rw [step_illegal hev hl]
  rfl

/-! ### Where the registers stand (R100) -/

/-- A register's offset. -/
def Reg.offset : Reg → Nat
  | .id         => 0x000
  | .ctrl       => 0x004
  | .cmd        => 0x008
  | .status     => 0x00C
  | .errCode    => 0x010
  | .errInfo    => 0x014
  | .valid      => 0x018
  | .msgLen     => 0x01C
  | .contLen    => 0x020
  | .numSyms    => 0x024
  | .pad        => 0x028
  | .bitLen     => 0x02C
  | .payOff     => 0x030
  | .payLen     => 0x034
  | .root       => 0x038
  | .nodeCnt    => 0x03C
  | .msgCap     => 0x040
  | .contCap    => 0x044
  | .codeSel    => 0x048
  | .codeInfo   => 0x04C
  | .codeBits k => 0x050 + 4 * k

theorem offset_of_regAt {off : Nat} {r : Reg} (h : regAt off = some r) : r.offset = 4 * (off / 4) := by
  unfold regAt at h
  split at h <;> cases h <;> simp only [Reg.offset] <;> omega

theorem regionPlace_eq_reg {off : Nat} {r : Reg} (h : regionPlace off = .reg r) : regAt off = some r := by
  unfold regionPlace at h
  split at h
  · cases h
  split at h
  · split at h <;> cases h
  split at h
  · rename_i r' hr
    cases h
    exact hr
  · cases h

theorem placeOf_eq_reg {addr : BitVec 22} {r : Reg} (h : placeOf addr = .reg r) :
    addr.toNat < 0x100000 ∧ regAt addr.toNat = some r := by
  unfold placeOf at h
  split at h
  · exact ⟨‹_›, regionPlace_eq_reg h⟩
  split at h
  · cases h
  split at h <;> cases h

/-- A legal access whose place is a register stands at that register's offset. -/
theorem Access.addr_eq_offset {a : Access} {r : Reg} (hl : a.legal = true) (h : placeOf a.addr = .reg r) :
    a.addr.toNat = r.offset := by
  obtain ⟨hr, hreg⟩ := placeOf_eq_reg h
  have := Access.aligned_of_legal hl hr
  rw [offset_of_regAt hreg]
  omega

/-! ### Writes while BUSY (R71) -/

section Busy

variable {s : State} (hb : s.busy = true) (n : Nat) (v : Word)

include hb

theorem State.placeWrite_ctrl_of_busy : s.placeWrite n v (.reg .ctrl) = s.setIe (v.getLsbD 0) := by
  simp [State.placeWrite, State.writeCtrl, hb]

theorem State.placeWrite_cmd_of_busy : s.placeWrite n v (.reg .cmd) = s.setRej true := by
  rcases s.writeCmd_cases v with ⟨hi, -⟩ | ⟨-, -, hc⟩
  · simp [State.busy_idle hi] at hb
  · exact hc

theorem State.placeWrite_other_of_busy {p : Place} (hctrl : p ≠ .reg .ctrl) (hcmd : p ≠ .reg .cmd)
    (hstatus : p ≠ .reg .status) : s.placeWrite n v p = s := by
  unfold State.placeWrite
  split
  · exact absurd rfl hctrl
  · exact absurd rfl hcmd
  · exact absurd rfl hstatus
  · exact if_pos hb

end Busy

/-- Settles O42: the three registers by their addresses; any other address names another place (`Access.addr_eq_offset`). -/
theorem busyWritesActOnlyOnCtrlStatusCmd : Obligations.BusyWritesActOnlyOnCtrlStatusCmd := by
  intro s c a rest hc hev hw hl
  have hb : (s.setEvents rest).busy = true := State.busy_busy hc
  have elsewhere : ∀ r : Reg, a.addr ≠ BitVec.ofNat 22 r.offset → placeOf a.addr ≠ .reg r := fun r hne hp =>
    hne (by rw [← Access.addr_eq_offset hl hp, BitVec.ofNat_toNat, BitVec.setWidth_eq])
  rw [step_write hev hw hl (Access.bytes_of_legal hl)]
  refine ⟨fun h => ?_, fun h => ?_, fun h => ?_, fun hctrl hstatus hcmd => ?_⟩
  · rw [h, show placeOf 0x004 = .reg .ctrl from rfl, State.placeWrite_ctrl_of_busy hb]
    rfl
  · rw [h, show placeOf 0x00C = .reg .status from rfl]
    rfl
  · rw [h, show placeOf 0x008 = .reg .cmd from rfl, State.placeWrite_cmd_of_busy hb]
    rfl
  · rw [State.placeWrite_other_of_busy hb _ _ (elsewhere .ctrl hctrl) (elsewhere .cmd hcmd) (elsewhere .status hstatus)]
    rfl

/-! ### Reads (R68, R70) -/

theorem State.busRead_readable {s : State} {p : Place} (n : Nat)
    (h : s.busy = false ∨ p.readableWhileBusy = true) :
    s.busRead n p = s.setResponse { rdata := some (s.placeRead n p), err := false } := by
  rcases h with h | h <;> simp [State.busRead, h]

theorem State.busRead_hidden {s : State} {p : Place} (n : Nat) (hb : s.busy = true) (hp : p.readableWhileBusy = false) :
    s.busRead n p = (s.setResponse { rdata := some (Config.busyRead s.draws), err := false }).nextDraw := by
  simp [State.busRead, hb, hp]

/-- R70: the registers that stay readable, by their offsets. -/
theorem Place.readable_cases {p : Place} (h : p.readableWhileBusy = true) :
    p = .nothing ∨ ∃ r : Reg, p = .reg r ∧ r.offset ∈ [0x000, 0x004, 0x008, 0x00C, 0x040, 0x044] := by
  cases p with
  | nothing => exact .inl rfl
  | reg r =>
    refine .inr ⟨r, rfl, ?_⟩
    cases r <;> simp_all [Place.readableWhileBusy, Reg.offset]
  | _ => cases h

theorem readable_of_mem {addr : BitVec 22} (h : addr.toNat ∈ [0x000, 0x004, 0x008, 0x00C, 0x040, 0x044]) :
    (placeOf addr).readableWhileBusy = true := by
  have all : ∀ k ∈ [0x000, 0x004, 0x008, 0x00C, 0x040, 0x044],
    (placeOf (BitVec.ofNat 22 k)).readableWhileBusy = true := by decide
  simpa using all _ h

/-- Settles O43: a readable place answers with its value (`readable_of_mem`); while BUSY a legal access at any other address
names `nothing` or a hidden place (`Place.readable_cases`). -/
theorem readsChangeNothingButTheResponse : Obligations.ReadsChangeNothingButTheResponse := by
  intro s a n rest hev hw hl hn
  rw [step_read hev hw hl hn]
  refine ⟨fun h => ?_, fun hi hmem hp => ?_⟩
  · have hvis : (s.setEvents rest).busy = false ∨ (placeOf a.addr).readableWhileBusy = true :=
      h.imp (fun hi => State.busy_idle hi) readable_of_mem
    rw [State.busRead_readable n hvis]
    rfl
  · have hb : (s.setEvents rest).busy = true := by
      cases he : s.engine with
      | idle   => exact absurd he hi
      | busy c => exact State.busy_busy he
    have hhid : (placeOf a.addr).readableWhileBusy = false := by
      rw [Bool.eq_false_iff]
      intro hr
      rcases Place.readable_cases hr with h | ⟨r, h, hoff⟩
      · exact hp h
      · exact hmem (Access.addr_eq_offset hl h ▸ hoff)
    rw [State.busRead_hidden n hb hhid]
    rfl

/-! ### The bytes of a window access (R63, R65) -/

theorem placeOf_msg {o : Nat} (h : o < 0x100000) : placeOf (BitVec.ofNat 22 (0x100000 + o)) = .msg o := by
  rw [placeOf, toNat_ofNat_of_lt (by omega), if_neg (by omega), if_pos (by omega), Nat.add_sub_cancel_left]

theorem placeOf_cont {o : Nat} (h : o < 0x100000) : placeOf (BitVec.ofNat 22 (0x200000 + o)) = .cont o := by
  rw [placeOf, toNat_ofNat_of_lt (by omega), if_neg (by omega), if_neg (by omega), if_pos (by omega),
    Nat.add_sub_cancel_left]

/-- Byte j of the number that bytes write, least significant first. -/
theorem leValue_byte (l : List Byte) (j : Nat) :
    l.foldr (fun b acc => b.toNat + 256 * acc) 0 / 2 ^ (8 * j) % 256 = (l.getD j 0).toNat := by
  induction l generalizing j with
  | nil => simp
  | cons b l ih =>
    have hb := b.isLt
    cases j with
    | zero => simp only [List.foldr_cons, List.getD_cons_zero]; omega
    | succ j =>
      rw [List.foldr_cons, List.getD_cons_succ, ← ih j, Nat.mul_succ, Nat.add_comm (8 * j) 8, Nat.pow_add,
        ← Nat.div_div_eq_div_mul]
      congr 2
      omega

/-- Lane j of a word made of bytes is byte j, or 0 where there is none. -/
theorem leWord_lane (l : List Byte) {j : Nat} (h : j < 4) : (leWord l).extractLsb' (8 * j) 8 = l.getD j 0 := by
  apply BitVec.eq_of_toNat_eq
  rw [← leValue_byte, leWord, BitVec.extractLsb'_toNat, BitVec.toNat_ofNat, Nat.shiftRight_eq_div_pow]
  interval_cases j <;> omega

/-- The lanes a window read returns. -/
theorem Buffer.leWord_readList_lane (cap : Nat) (b : Buffer) (o n : Nat) {j : Nat} (h : j < 4) :
    (leWord (b.readList cap o n)).extractLsb' (8 * j) 8 = if j < n ∧ o + j < cap then b.byte (o + j) else 0 := by
  rw [leWord_lane _ h, List.getD_eq_getElem?_getD]
  by_cases hj : j < n
  · rw [List.getElem?_eq_getElem (by simpa), Option.getD_some, Buffer.readList_getElem]
    simp [Buffer.read, hj]
  · rw [List.getElem?_eq_none (by simpa using hj)]
    simp [hj]

theorem lanesOfWord_take_getElem (v : Word) {n k : Nat} (h : k < ((lanesOfWord v).take n).length) :
    ((lanesOfWord v).take n)[k] = v.extractLsb' (8 * k) 8 := by
  have hk : k < 4 := Nat.lt_of_lt_of_le h (List.length_take_le' ..)
  rw [List.getElem_take]
  interval_cases k <;> rfl

/-- The bytes a window write of n lanes leaves. -/
theorem Buffer.read_writeList_lanes (cap : Nat) (b : Buffer) (o : Nat) (v : Word) {n : Nat} (hn : n ≤ 4) (i : Nat) :
    (b.writeList cap o ((lanesOfWord v).take n)).read cap i =
      if o ≤ i ∧ i < o + n ∧ i < cap then v.extractLsb' (8 * (i - o)) 8 else b.read cap i := by
  have hlen : ((lanesOfWord v).take n).length = n := by simp [lanesOfWord, hn]
  by_cases hcap : i < cap
  · by_cases hin : o ≤ i ∧ i < o + n
    · obtain ⟨k, rfl⟩ := Nat.exists_eq_add_of_le hin.1
      rw [Buffer.read_writeList_inside (by omega) hcap, lanesOfWord_take_getElem, if_pos ⟨hin.1, hin.2, hcap⟩,
        Nat.add_sub_cancel_left]
    · rw [Buffer.read_writeList_outside (by omega), if_neg (by tauto)]
  · simp [Buffer.read, hcap]

section Idle

variable {s : State} (hb : s.busy = false) (n : Nat) (v : Word) (o : Nat)

include hb

theorem State.placeWrite_msg_of_idle : s.placeWrite n v (.msg o) = s.msgWrite o ((lanesOfWord v).take n) := by
  simp [State.placeWrite, State.idleWrite, hb]

theorem State.placeWrite_cont_of_idle : s.placeWrite n v (.cont o) = s.contWrite o ((lanesOfWord v).take n) := by
  simp [State.placeWrite, State.idleWrite, hb]

end Idle

/-- The sizes of a window access and their widths in bytes (R60). -/
theorem width_cases {size : BitVec 2} {n : Nat} (h : (size, n) ∈ [(0#2, 1), (1#2, 2), (2#2, 4)]) :
    size ≠ 3#2 ∧ 2 ^ size.toNat = n ∧ n ∣ 4 := by
  have all : ∀ p ∈ [(0#2, 1), (1#2, 2), (2#2, 4)], p.1 ≠ 3#2 ∧ 2 ^ p.1.toNat = p.2 ∧ p.2 ∣ 4 := by decide
  exact all _ h

/-- An access of n bytes at an aligned offset of the window at `base` is legal. -/
theorem Access.window_legal {size : BitVec 2} {n o base : Nat} (hsize : (size, n) ∈ [(0#2, 1), (1#2, 2), (2#2, 4)])
    (halign : o % n = 0) (hbase : base = 0x100000 ∨ base = 0x200000) (ho : o < 0x100000) (we : Bool) (v : Word) :
    let a : Access := { addr := BitVec.ofNat 22 (base + o), we := we, size := size, wdata := v }
    a.legal = true ∧ a.bytes = some n := by
  intro a
  obtain ⟨h3, rfl, hdvd⟩ := width_cases hsize
  have haddr : a.addr.toNat = base + o := toNat_ofNat_of_lt (by omega)
  have hdvd' : 2 ^ size.toNat ∣ base + o :=
    Nat.dvd_add (hdvd.trans (by omega)) (Nat.dvd_of_mod_eq_zero halign)
  have hl : a.legal = true :=
    a.legal_iff.mpr ⟨h3, haddr ▸ Nat.mod_eq_zero_of_dvd hdvd', .inl (by omega)⟩
  exact ⟨hl, Access.bytes_of_legal hl⟩

/-- Settles O45: the lanes written by `Buffer.read_writeList_lanes`, the lanes read by `Buffer.leWord_readList_lane`. -/
theorem windowAccessesActOnTheirBytes : Obligations.WindowAccessesActOnTheirBytes := by
  intro s size o n v rest hi hsize halign ho
  have hb : (s.setEvents rest).busy = false := State.busy_idle hi
  obtain ⟨-, -, hdvd⟩ := width_cases hsize
  have hn : n ≤ 4 := Nat.le_of_dvd (by decide) hdvd
  have hmsg := Access.window_legal hsize halign (.inl rfl) ho
  have hcont := Access.window_legal hsize halign (.inr rfl) ho
  refine ⟨fun hev => ?_, fun hev => ?_, fun hev => ?_, fun hev => ?_⟩
  · obtain ⟨hl, hbytes⟩ := hmsg true v
    rw [step_write hev rfl hl hbytes, placeOf_msg ho, State.placeWrite_msg_of_idle hb]
    exact ⟨_, rfl, rfl, Buffer.read_writeList_lanes _ _ o v hn⟩
  · obtain ⟨hl, hbytes⟩ := hcont true v
    rw [step_write hev rfl hl hbytes, placeOf_cont ho, State.placeWrite_cont_of_idle hb]
    exact ⟨_, rfl, rfl, Buffer.read_writeList_lanes _ _ o v hn⟩
  · obtain ⟨hl, hbytes⟩ := hmsg false v
    rw [step_read hev rfl hl hbytes, placeOf_msg ho, State.busRead_readable n (.inl hb)]
    exact ⟨_, rfl, fun _ => Buffer.leWord_readList_lane _ _ o n⟩
  · obtain ⟨hl, hbytes⟩ := hcont false v
    rw [step_read hev rfl hl hbytes, placeOf_cont ho, State.busRead_readable n (.inl hb)]
    exact ⟨_, rfl, fun _ => Buffer.leWord_readList_lane _ _ o n⟩

end Sys2Proof.Machine
end

section
/-! PROOFS. The command word (30_encoding.md rules R90, R95–R97): the decoder inverts the table of codes, and only the low
byte of a CMD word counts; acceptance of a CMD write (60_exceptions.md rule R205). -/

namespace Sys2Proof.Machine

/-! ### Codes -/

/-- Every row of R95's table is in the family Encoding. -/
theorem encodingLaws (i : Instr) : Laws.Encoding.Statement i :=
  match i with
  | .nop        => Laws.Encoding.nop
  | .count      => Laws.Encoding.count
  | .build      => Laws.Encoding.build
  | .gen        => Laws.Encoding.gen
  | .encode     => Laws.Encoding.encode
  | .writeHdr   => Laws.Encoding.writeHdr
  | .readHdr    => Laws.Encoding.readHdr
  | .decode     => Laws.Encoding.decode
  | .compress   => Laws.Encoding.compress
  | .decompress => Laws.Encoding.decompress
  | .inspect    => Laws.Encoding.inspect

/-- R95: a code is a command's exactly where it is that command's code. -/
theorem decodeOpc_eq_ok_iff {c : Byte} {i : Instr} : decodeOpc c = .ok i ↔ c = opcode i := by
  obtain ⟨-, -, hdec, -⟩ := encodingLaws i
  refine ⟨fun h => ?_, fun h => h ▸ hdec⟩
  rcases decodeOpc_cases c with ⟨-, i', hd, hc⟩ | ⟨-, hd⟩ <;> rw [hd] at h
  · cases h
    exact hc.symm
  · cases h

theorem legalCode_iff (c : Byte) :
    legalCode c = true ↔ c.toNat ≤ 0x07 ∨ (0x10 ≤ c.toNat ∧ c.toNat ≤ 0x12) := by
  simp [legalCode]

/-- Settles O2: the decoder's two answers are told apart by `legalCode`. -/
theorem unlistedCodesAreRefusedByName : Obligations.UnlistedCodesAreRefusedByName := by
  intro c
  refine ⟨legalCode_iff c, ?_⟩
  rcases decodeOpc_cases c with ⟨hl, i, hd, -⟩ | ⟨hl, hd⟩
  · exact ⟨fun _ => ⟨i, hd⟩, fun h => absurd (hl.symm.trans h) nofun⟩
  · exact ⟨fun h => absurd (hl.symm.trans h) nofun, fun _ => hd⟩

/-! ### Words -/

/-- R90, R96: OPC is the low byte, whatever stands above it. -/
theorem opcOf_append (high : BitVec 24) (c : Byte) : opcOf (high ++ c) = c :=
  BitVec.extractLsb'_append_eq_right

theorem opcOf_eq_iff (w : Word) (c : Byte) : opcOf w = c ↔ ∃ high : BitVec 24, w = high ++ c := by
  have split : w.extractLsb' 8 24 ++ opcOf w = w :=
    (BitVec.extractLsb'_append_extractLsb'_eq_extractLsb' (start₁ := 0) (len₁ := 8) rfl).trans BitVec.extractLsb'_eq_self
  exact ⟨fun h => ⟨w.extractLsb' 8 24, h ▸ split.symm⟩, fun ⟨high, h⟩ => h ▸ opcOf_append high c⟩

theorem decodeWord_eq_ok_iff {w : Word} {i : Instr} : decodeWord w = .ok i ↔ opcOf w = opcode i := decodeOpc_eq_ok_iff

/-- R65, R90: OPC stands in the first byte lane. -/
theorem opcOf_wordOfLanes (b0 b1 b2 b3 : Byte) : opcOf (wordOfLanes b0 b1 b2 b3) = b0 :=
  opcOf_append (b3 ++ b2 ++ b1) b0

theorem decodeBytes_cons (b0 b1 b2 b3 : Byte) (rest : List Byte) :
    decodeBytes (b0 :: b1 :: b2 :: b3 :: rest) = (decodeOpc b0).map fun i => (i, rest) := by
  rw [decodeBytes, decodeWord, opcOf_wordOfLanes]
  cases decodeOpc b0 <;> rfl

theorem decodeBytes_eq_ok_iff {i : Instr} {b0 b1 b2 b3 : Byte} {rest : List Byte} :
    decodeBytes (b0 :: b1 :: b2 :: b3 :: rest) = .ok (i, rest) ↔ b0 = opcode i := by
  rw [decodeBytes_cons, ← decodeOpc_eq_ok_iff]
  cases decodeOpc b0 <;> simp [Except.map]

theorem opcOf_encode (i : Instr) : opcOf (encode i) = opcode i :=
  (BitVec.extractLsb'_setWidth_of_le (by decide)).trans BitVec.extractLsb'_eq_self

/-- Settles O1: words and lanes by their low byte (`decodeWord_eq_ok_iff`), the encoder's by `encodingLaws`. -/
theorem wordsDecodeExactlyByTheirLowByte : Obligations.WordsDecodeExactlyByTheirLowByte := by
  refine ⟨fun i w => decodeWord_eq_ok_iff.trans (opcOf_eq_iff w (opcode i)), fun i => ?_,
    fun i b0 b1 b2 b3 rest => decodeBytes_eq_ok_iff⟩
  obtain ⟨-, -, -, hbytes, -⟩ := encodingLaws i
  exact ⟨decodeWord_eq_ok_iff.mpr (opcOf_encode i), hbytes⟩

/-- Settles O3: each word is 24 high bits in front of a code of the table. -/
theorem writtenOutWordsDecode : Obligations.WrittenOutWordsDecode := by
  have word : ∀ (high : BitVec 24) (i : Instr), decodeWord (high ++ opcode i) = .ok i := fun high i =>
    decodeWord_eq_ok_iff.mpr (opcOf_append high (opcode i))
  exact ⟨word 0 .count, word 0 .build, word 0 .gen, word 0 .encode, word 0 .readHdr, word 0 .decode, word 0 .compress,
    word 0xFFFFFF .count⟩

/-! ### Acceptance (R205) -/

theorem decodeOpc_opcode (i : Instr) : decodeOpc (opcode i) = .ok i := decodeOpc_eq_ok_iff.mpr rfl

/-- A command's code starts the command. -/
theorem State.accept_of_opcode (s : State) {v : Word} {i : Instr} (h : opcOf v = opcode i) :
    s.accept v = (s.clearStatus (opcode i)).setEngine (.busy (opcode i)) := by
  simp [State.accept, h, decodeOpc_opcode]

/-- A table word in the bus's lanes decodes by its low byte. -/
theorem opcOf_tableWord {nbits w : Nat} {i : Instr} (h : decodeTableWord nbits w = some i) :
    opcOf (tableWord nbits w) = opcode i := by
  rw [decodeTableWord, lanesOfWord, decodeBytes_cons, ← opcOf] at h
  rw [← decodeOpc_eq_ok_iff]
  cases hd : decodeOpc (opcOf (tableWord nbits w)) with
  | ok j    => simpa [hd, Except.map] using h
  | error e => simp [hd, Except.map] at h

/-- Settles O5: the placed word starts its command, and the wait behind it gives the engine the turn. -/
theorem placedWordIsRunByTheNextStep : Obligations.PlacedWordIsRunByTheNextStep := by
  intro s nbits w i h
  have hacc := s.accept_of_opcode (opcOf_tableWord h)
  have hplaced : s.withFetchWord nbits w =
      ((s.clearStatus (opcode i)).setEngine (.busy (opcode i))).setEvents (.wait :: s.events) := by
    rw [State.withFetchWord, State.startCommand, hacc]
  refine ⟨stepRunsTheRunningCommand _ (opcode i) i ?_ (decodeOpc_opcode i) (.inr ⟨s.events, rfl⟩), hplaced⟩
  rw [hplaced]
  rfl

/-- Settles O38: the place of 0x008 is CMD, and acceptance has two outcomes. -/
theorem cmdWriteWhileIdleIsAccepted : Obligations.CmdWriteWhileIdleIsAccepted := by
  intro s v rest hi hev
  rw [← opcOf]
  have hcmd : (s.setEvents rest).placeWrite 4 v (placeOf 0x008) = (s.setEvents rest).accept v := by
    rcases (s.setEvents rest).writeCmd_cases v with ⟨-, hc⟩ | ⟨c, hc, -⟩
    · exact hc
    · exact absurd (hi.symm.trans hc) nofun
  rw [step_wordWrite hev (by decide), hcmd]
  rcases (s.setEvents rest).accept_cases v with ⟨hl, ha⟩ | ⟨hl, ha⟩ <;> rw [ha]
  · exact ⟨fun _ => rfl, fun h => absurd (hl.symm.trans h) nofun⟩
  · exact ⟨fun h => absurd (hl.symm.trans h) nofun, fun _ => rfl⟩

end Sys2Proof.Machine
end

section
/-! PROOFS. The inspection windows (30_encoding.md rules R103, R104): the words' fields do not overlap, so their values add up. -/

namespace Sys2Proof.Machine

/-! ### Fields of a word -/

/-- A field below bit `i` is added to fields at and above it. -/
theorem toNat_or_of_lt {x y : Word} (i : Nat) (hx : 2 ^ i ∣ x.toNat) (hy : y.toNat < 2 ^ i) :
    (x ||| y).toNat = x.toNat + y.toNat := by
  obtain ⟨a, ha⟩ := hx
  rw [BitVec.toNat_or, ha, ← Nat.two_pow_add_eq_or_of_lt hy]

/-- A field moved up with no bit lost. -/
theorem toNat_shiftLeft_of_lt {x : Word} {k : Nat} (h : x.toNat * 2 ^ k < 2 ^ 32) :
    (x <<< k).toNat = x.toNat * 2 ^ k := by
  rw [BitVec.toNat_shiftLeft, Nat.shiftLeft_eq, Nat.mod_eq_of_lt h]

/-- R103: an FT window word's fields. -/
theorem ftEntry_toNat {n : Nat} (h : n < 65536) (m : Byte) :
    (0x80000000#32 ||| (BitVec.ofNat 32 n <<< 8) ||| m.setWidth 32).toNat = 2 ^ 31 + n * 256 + m.toNat := by
  have hm : (m.setWidth 32).toNat = m.toNat := BitVec.toNat_setWidth_of_le (by decide)
  have hn : (BitVec.ofNat 32 n).toNat = n := toNat_ofNat_of_lt (by omega)
  have hcount : (BitVec.ofNat 32 n <<< 8).toNat = n * 256 :=
    (toNat_shiftLeft_of_lt (by omega)).trans (by omega)
  have hhigh : (0x80000000#32 ||| (BitVec.ofNat 32 n <<< 8)).toNat = 2 ^ 31 + n * 256 := by
    rw [toNat_or_of_lt 31 (by decide) (by omega), hcount]
    rfl
  rw [toNat_or_of_lt 8 (by omega) (by omega), hhigh, hm]

/-- R104: a leaf's INFO word has NONE in both child fields. -/
theorem Node.info_leaf_toNat (m : Byte) (f : BitVec 32) :
    (Node.leaf m f).info.toNat = 2 ^ 31 + 2 ^ 30 + 0x1FF * 2 ^ 17 + 0x1FF * 2 ^ 8 + m.toNat := by
  have hm : (m.setWidth 32).toNat = m.toNat := BitVec.toNat_setWidth_of_le (by decide)
  rw [Node.info, toNat_or_of_lt 8 (by decide) (by omega), hm]
  rfl

/-- R104: an internal node's INFO word. -/
theorem Node.info_internal_toNat (f : BitVec 32) (l r : BitVec 9) :
    (Node.internal f l r).info.toNat = 2 ^ 31 + r.toNat * 2 ^ 17 + l.toNat * 2 ^ 8 := by
  have child : ∀ (x : BitVec 9) (k : Nat), k ≤ 17 → (x.setWidth 32 <<< k).toNat = x.toNat * 2 ^ k := fun x k hk => by
    have hx : (x.setWidth 32).toNat = x.toNat := BitVec.toNat_setWidth_of_le (by decide)
    have hlt : x.toNat * 2 ^ k < 2 ^ 9 * 2 ^ 17 :=
      Nat.mul_lt_mul_of_lt_of_le x.isLt (Nat.pow_le_pow_right (by decide) hk) (by decide)
    rw [toNat_shiftLeft_of_lt (by rw [hx]; omega), hx]
  have hr := child r 17 (by decide)
  have hl := child l 8 (by decide)
  have hhigh : (0x80000000#32 ||| (r.setWidth 32 <<< 17)).toNat = 2 ^ 31 + r.toNat * 2 ^ 17 := by
    rw [toNat_or_of_lt 31 (by decide) (by omega), hr]
    rfl
  rw [Node.info, toNat_or_of_lt 17 (by omega) (by omega), hhigh, hl]

/-! ### The windows -/

theorem nodeAt_ofNat (nodes : Vector Node 511) {i : Nat} (h : i < 511) : nodeAt nodes (BitVec.ofNat 9 i) = nodes[i] := by
  have hi : (BitVec.ofNat 9 i).toNat = i := toNat_ofNat_of_lt (by omega)
  simp [nodeAt, hi, h]

/-- R104: a node window word of a node in the arena. -/
theorem State.nodeWord_of_lt {s : State} (f : Node → Word) {i : Nat} (hv : s.valid.treeV = true) (hi : i < 511)
    (hc : i < s.tables.nodeCnt.val) : s.nodeWord f i = f s.tables.nodes[i] := by
  rw [State.nodeWord, nodeAt_ofNat _ hi]
  simp [hv, hc]

theorem State.nodeWord_of_le {s : State} (f : Node → Word) {i : Nat} (hc : s.tables.nodeCnt.val ≤ i) :
    s.nodeWord f i = 0 := by
  simp [State.nodeWord, Nat.not_lt.mpr hc]

/-- R103: an FT window word of an entry of the table. -/
theorem State.ftWord_of_entry {s : State} {k n : Nat} {m : Byte} (hv : s.valid.ftV = true)
    (h : s.tables.ft[k]? = some (m, n)) :
    s.ftWord k = 0x80000000#32 ||| (BitVec.ofNat 32 (n % 65536) <<< 8) ||| m.setWidth 32 := by
  simp [State.ftWord, hv, h]

theorem State.ftWord_of_le {s : State} {k : Nat} (h : s.tables.ftN.val ≤ k) : s.ftWord k = 0 := by
  have : s.tables.ft[k]? = none := List.getElem?_eq_none (by rwa [Tables.ft_length])
  simp [State.ftWord, this]

/-- Settles O48: each offset's place by the address map, each word's fields by their sums. -/
theorem inspectionWindowsShowTheTables : Obligations.InspectionWindowsShowTheTables := by
  refine fun s => ⟨fun k hk hv => ?_, fun i hi hv => ?_⟩
  · rw [placeOf_ftEntry hk]
    change (∀ m n, _ → (s.ftWord k).toNat = _) ∧ (_ → s.ftWord k = 0)
    refine ⟨fun m n he => ?_, State.ftWord_of_le⟩
    rw [State.ftWord_of_entry hv he, ftEntry_toNat (Nat.mod_lt _ (by decide))]
  · rw [placeOf_nodeFreq hi, placeOf_nodeInfo hi]
    change (_ → s.nodeWord Node.freq i = _ ∧ (∀ m f, _ → (s.nodeWord Node.info i).toNat = _) ∧
      (∀ f l r, _ → (s.nodeWord Node.info i).toNat = _)) ∧ (_ → s.nodeWord Node.freq i = 0 ∧ s.nodeWord Node.info i = 0)
    refine ⟨fun hc => ?_, fun hc => ⟨State.nodeWord_of_le _ hc, State.nodeWord_of_le _ hc⟩⟩
    rw [State.nodeWord_of_lt _ hv hi hc, State.nodeWord_of_lt _ hv hi hc]
    exact ⟨rfl, fun m f he => he ▸ Node.info_leaf_toNat m f, fun f l r he => he ▸ Node.info_internal_toNat f l r⟩

end Sys2Proof.Machine
end

section
/-! PROOFS. READ_HDR of a container that is an allowed header and a payload (30_encoding.md rule R108, 44_container.md rule
R172): the parser reads back the header's fields, and the table and the descriptors are stored. -/

namespace Sys2Proof.Machine

/-! ### Bytes at an offset -/

/-- The bytes at `off`, `off + 1`, … are those of the list. -/
def BytesAt (get : Nat → Byte) : Nat → List Byte → Prop
  | _, []       => True
  | off, b :: l => get off = b ∧ BytesAt get (off + 1) l

theorem bytesAt_append {get : Nat → Byte} {off : Nat} {l m : List Byte} :
    BytesAt get off (l ++ m) ↔ BytesAt get off l ∧ BytesAt get (off + l.length) m := by
  induction l generalizing off with
  | nil => simp [BytesAt]
  | cons b l ih =>
    rw [List.cons_append, BytesAt, BytesAt, ih, and_assoc, List.length_cons, Nat.add_right_comm, Nat.add_assoc off]

/-- A buffer range holds its bytes. -/
theorem Buffer.bytesAt_readList (cap : Nat) (b : Buffer) (off n : Nat) :
    BytesAt (b.read cap) off (b.readList cap off n) := by
  induction n generalizing off with
  | zero => trivial
  | succ n ih => exact ⟨rfl, ih (off + 1)⟩

/-! ### The parser reads the header back -/

/-- R170: an entry's three bytes give its symbol and its count. -/
theorem entry_of_bytesAt {get : Nat → Byte} {off : Nat} {e : Byte × Nat} (h : BytesAt get off (entryBytes e))
    (hc : e.2 ≤ 65535) : (get off, ofBe16 (get (off + 1)) (get (off + 2))) = e := by
  obtain ⟨hsym, hhigh, hlow, -⟩ := h
  rw [hsym, hhigh, hlow, ofBe16_be16 _ (Nat.mod_lt _ (by decide)), Nat.mod_eq_of_lt (by omega)]

/-- R172: the loop over an allowed table's entries appends them all. -/
theorem readEntries_of_bytesAt {sym8 : Bool} {get : Nat → Byte} {l : FreqTable} {off : Nat} {t : FreqTable}
    (hb : BytesAt get off (l.flatMap entryBytes)) (hn : ((t ++ l).map Prod.fst).Nodup)
    (hv : ∀ e ∈ l, tooWide sym8 e.1 = false ∧ 1 ≤ e.2 ∧ e.2 ≤ 65535) :
    readEntries sym8 get l.length off t = .ok (t ++ l) := by
  induction l generalizing off t with
  | nil => simp [readEntries]
  | cons e l ih =>
    obtain ⟨he, hl⟩ := bytesAt_append.mp (List.flatMap_cons ▸ hb)
    obtain ⟨hwide, hpos, hmax⟩ := hv e (by simp)
    have hnew : e.1 ∉ t.map Prod.fst := fun hm => by
      rw [List.map_append, List.nodup_append] at hn
      exact hn.2.2 e.1 hm e.1 (by simp) rfl
    have hentry := entry_of_bytesAt he hmax
    have hsym : get off = e.1 := congrArg Prod.fst hentry
    have hcount : ofBe16 (get (off + 1)) (get (off + 2)) = e.2 := congrArg Prod.snd hentry
    have hrest := ih (off := off + 3) (t := t ++ [e]) hl (by simpa using hn) fun x hx => hv x (by simp [hx])
    simp only [List.length_cons, readEntries, hsym, hcount, hwide, Bool.false_eq_true, if_false, if_neg hnew,
      if_neg (Nat.ne_zero_of_lt hpos)]
    simpa using hrest

/-- R108, R172: every check passes on an allowed header in front of the rest of `len` bytes. -/
theorem parseHeader_of_bytesAt {sym8 : Bool} {get : Nat → Byte} {len : Nat} {ft : FreqTable} {pad : Byte}
    (hb : BytesAt get 0 (headerBytes ft pad)) (hl : headerLen ft.length ≤ len)
    (ha : headerAllowed sym8 ft pad (len - headerLen ft.length)) :
    parseHeader sym8 get len = .ok { table := ft, pad := pad } := by
  obtain ⟨hmax, hnodup, hval, hpad, hempty⟩ := ha
  obtain ⟨hfront, hlast⟩ := bytesAt_append.mp hb
  obtain ⟨⟨h0, h1, h2, h3, -⟩, hentries⟩ := bytesAt_append.mp hfront
  have hcount : ofBe32 (get 0) (get 1) (get 2) (get 3) = ft.length := by
    rw [h0, h1, h2, h3, ofBe32_be32 _ (by omega)]
  have hentries := readEntries_of_bytesAt hentries (t := []) (by simpa using hnodup) hval
  have hpadAt : get (4 + 3 * ft.length) = pad := by
    obtain ⟨h, -⟩ := hlast
    rwa [List.length_append, be32_length, flatMap_entryBytes_length, Nat.zero_add] at h
  have h4 : ¬len < 4 := by unfold headerLen at hl; omega
  simp only [be32_length, Nat.zero_add] at hentries
  simp only [parseHeader, if_neg h4, hcount, if_neg (Nat.not_lt.mpr hl), if_neg (Nat.not_lt.mpr hmax), hentries, hpadAt,
    List.nil_append, if_neg (Nat.not_lt.mpr hpad)]
  exact if_neg fun ⟨hp, hne⟩ => hne (hempty hp)

/-! ### READ_HDR's effects -/

/-- The container is as long as CONT_LEN says. -/
theorem State.container_length (s : State) : s.container.length = s.contLen.toNat := Buffer.readList_length ..

/-- R172: READ_HDR of an allowed header and a payload stores the header. -/
theorem stageReadHdr_of_container {s : State} {ft : FreqTable} {pad : Byte} {payload : List Byte}
    (hl : s.contLen.toNat ≤ s.caps.contCap) (hc : s.container = headerBytes ft pad ++ payload)
    (ha : headerAllowed s.sym8 ft pad payload.length) :
    stageReadHdr s =
      .ok ((s.setTables (s.tables.setHeader { table := ft, pad := pad } (headerLen ft.length + payload.length))).setValid
        Valid.afterReadHdr) := by
  have hlen : s.contLen.toNat = headerLen ft.length + payload.length := by
    rw [← s.container_length, hc, List.length_append, headerBytes_length]
  have hbytes : BytesAt s.contRead 0 (headerBytes ft pad) := by
    have hall : BytesAt s.contRead 0 s.container := Buffer.bytesAt_readList ..
    exact (bytesAt_append.mp (hc ▸ hall)).1
  have hp := parseHeader_of_bytesAt hbytes (Nat.le_add_right _ payload.length) (by rwa [Nat.add_sub_cancel_left])
  rw [hlen] at hl
  simp only [stageReadHdr, hlen, if_neg (Nat.not_lt.mpr hl), hp]

/-- The stored header reads back (R172), whatever the storage held. -/
theorem Tables.setHeader_fields (t : Tables) {ft : FreqTable} {sym8 : Bool} {pad : Byte} {p : Nat}
    (hfit : headerLen ft.length + p ≤ 1048576) (ha : headerAllowed sym8 ft pad p) :
    let t' := t.setHeader { table := ft, pad := pad } (headerLen ft.length + p)
    t'.ft = ft ∧ t'.ftN.val = ft.length ∧ t'.pad.toNat = pad.toNat ∧ t'.payOff.toNat = headerLen ft.length ∧
      t'.payLen.toNat = p ∧ t'.bitLen.toNat = 8 * p - pad.toNat := by
  obtain ⟨hmax, hnodup, hval, hpad, -⟩ := ha
  have hpad3 : (pad.setWidth 3).toNat = pad.toNat := by rw [BitVec.toNat_setWidth]; omega
  simp only [Tables.setHeader, Nat.add_sub_cancel_left]
  exact ⟨t.ft_setFt_of_bounds hnodup fun e he => (hval e he).2, t.setFt_ftN ft hmax, hpad3,
    toNat_ofNat_of_lt (by omega), toNat_ofNat_of_lt (by omega), toNat_ofNat_of_lt (by omega)⟩

/-- Settles O25: the parser reads the header back, and its fields fit their registers. -/
theorem readHdrRestoresTheTable : Obligations.ReadHdrRestoresTheTable := by
  intro s ft pad payload hk hl hc ha
  have hfit : headerLen ft.length + payload.length ≤ 1048576 := by
    have hlen := congrArg List.length hc
    rw [s.container_length, List.length_append, headerBytes_length] at hlen
    exact hlen ▸ hl.trans (Caps.wf_contCap hk)
  obtain ⟨hft, hftN, hpad, hoff, hpay, hbits⟩ := s.tables.setHeader_fields hfit ha
  refine ⟨_, exec_eq .readHdr s, ?_⟩
  simp only [stageOf, stageReadHdr_of_container hl hc ha]
  exact ⟨rfl, hft, hftN, hpad, hoff, hpay, hbits, rfl, rfl, rfl, rfl⟩

end Sys2Proof.Machine
end

section
/-! PROOFS. A successful COMPRESS (30_encoding.md rule R106, 46_top.md rule R191): COUNT, BUILD and GEN leave the table of the
message with its tree and codes; ENCODE and WRITE_HDR leave the container. -/

namespace Sys2Proof.Machine

/-! ### Updates one after another: buffers and lengths first, then the tables, then VALID -/

@[simp] theorem State.setTables_setTables (s : State) (t t' : Tables) : (s.setTables t).setTables t' = s.setTables t' :=
  rfl
@[simp] theorem State.setValid_setValid (s : State) (v v' : Valid) : (s.setValid v).setValid v' = s.setValid v' := rfl
@[simp] theorem State.setValid_setTables (s : State) (v : Valid) (t : Tables) :
    (s.setValid v).setTables t = (s.setTables t).setValid v := rfl
@[simp] theorem State.setValid_contWrite (s : State) (v : Valid) (off : Nat) (l : List Byte) :
    (s.setValid v).contWrite off l = (s.contWrite off l).setValid v := rfl
@[simp] theorem State.setValid_setContLen (s : State) (v : Valid) (n : Word) :
    (s.setValid v).setContLen n = (s.setContLen n).setValid v := rfl
@[simp] theorem State.setTables_contWrite (s : State) (t : Tables) (off : Nat) (l : List Byte) :
    (s.setTables t).contWrite off l = (s.contWrite off l).setTables t := rfl
@[simp] theorem State.setTables_setContLen (s : State) (t : Tables) (n : Word) :
    (s.setTables t).setContLen n = (s.setContLen n).setTables t := rfl

/-! ### COUNT, BUILD and GEN -/

/-- R131: with the message in bounds, COUNT stores its table. -/
theorem stageCount_of_bounds {s : State} (hl : s.msgLen.toNat ≤ s.caps.msgCap)
    (hw : ∀ m ∈ s.message, tooWide s.sym8 m = false) (hc : ∀ m, s.message.count m ≤ 65535) :
    stageCount s = .ok ((s.setTables (s.tables.setFt (countFrequencies s.message))).setValid Valid.afterCount) := by
  have hloop : countLoop s.sym8 s.message 0 [] = .ok (countFrequencies s.message) :=
    countLoop_of_bounds hw fun m => by simpa [countOf] using hc m
  simp only [stageCount, if_neg (Nat.not_lt.mpr hl), hloop]

/-- R40, R130: the counts of a message in bounds fit their fields. -/
theorem countFrequencies_bounds_of_count {l : List Byte} (hc : ∀ m, l.count m ≤ 65535) :
    ∀ e ∈ countFrequencies l, 1 ≤ e.2 ∧ e.2 ≤ 65535 := fun e he => by
  have hcount : e.2 = l.count e.1 := by
    rw [← countOf_countFrequencies, countOf_eq_of_mem (countFrequencies_nodup l) he]
  exact ⟨countFrequencies_pos l e he, hcount ▸ hc e.1⟩

/-- The storage with a table, its tree and its codes. -/
def Tables.codedFor (t : Tables) (ft : FreqTable) : Tables :=
  { (t.setFt ft).setTree (buildTree ft) with ct := codesOf ft t.nodes }

section CodedFor

variable (t : Tables) {ft : FreqTable} (hn : (ft.map Prod.fst).Nodup) (hb : ∀ e ∈ ft, 1 ≤ e.2 ∧ e.2 ≤ 65535)

include hn hb

theorem Tables.codedFor_ft : (t.codedFor ft).ft = ft := t.ft_setFt_of_bounds hn hb

theorem Tables.codedFor_ftN : (t.codedFor ft).ftN.val = ft.length := by
  rw [← Tables.ft_length, t.codedFor_ft hn hb]

theorem Tables.codedFor_ftOk : (t.codedFor ft).ftOk := t.ftOk_setFt hn hb

theorem Tables.codedFor_treeOk : (t.codedFor ft).treeOk := by
  have h := (t.setFt ft).treeOk_setTree
  rw [t.ft_setFt_of_bounds hn hb] at h
  exact h

/-- Every symbol of the table has a code (R152). -/
theorem Tables.codedFor_isSome {m : Byte} (hm : m ∈ ft.map Prod.fst) :
    (ctAt (t.codedFor ft).ct m).isSome = true := by
  have hft := t.codedFor_ft hn hb
  have hne : (t.codedFor ft).ft ≠ [] := fun h => by
    rw [hft] at h
    simp [h] at hm
  obtain ⟨tree, hl, hcodes⟩ :=
    exists_codeTree_of_ctOk (t.codedFor_ftOk hn hb) (t.codedFor_treeOk hn hb) rfl hne
  rw [ctAt_isSome_iff_mem_leaves hcodes, hl.mem_iff, hft]
  exact hm

end CodedFor

/-- The state with a table, its tree and its codes, and VALID saying so. -/
def State.codedFor (s : State) (ft : FreqTable) : State :=
  (s.setTables (s.tables.codedFor ft)).setValid Valid.afterCount.afterBuild.afterGen

/-- COMPRESS's first three stages (R191). -/
theorem countBuildGen_of_bounds {s : State} (hl : s.msgLen.toNat ≤ s.caps.msgCap)
    (hw : ∀ m ∈ s.message, tooWide s.sym8 m = false) (hc : ∀ m, s.message.count m ≤ 65535) :
    ((stageCount s).andThen stageBuild).andThen stageGen = .ok (s.codedFor (countFrequencies s.message)) := by
  have hft :=
    s.tables.ft_setFt_of_bounds (countFrequencies_nodup s.message) (countFrequencies_bounds_of_count hc)
  have hbuild : ∀ t : State, t.valid.ftV = true → stageBuild t = buildBody t := fun t h =>
    require_ok ((Valid.missing_ft _).mpr h)
  have hgen : ∀ t : State, t.valid.treeV = true → stageGen t = genBody t := fun t h =>
    require_ok ((Valid.missing_tree _).mpr h)
  rw [stageCount_of_bounds hl hw hc, Stage.andThen_ok, hbuild _ rfl, buildBody, Stage.andThen_ok, hgen _ rfl]
  simp only [State.setValid_tables, State.setTables_tables, hft, genBody, State.setValid_setTables,
    State.setTables_setTables, State.setValid_setValid]
  rfl

/-! ### Symbols of the message -/

theorem mem_syms_of_countOf_ne_zero {m : Byte} {t : FreqTable} (h : countOf m t ≠ 0) : m ∈ t.map Prod.fst := by
  induction t with
  | nil => exact absurd rfl h
  | cons e t ih =>
    by_cases he : e.1 = m
    · simp [he]
    · exact List.mem_cons_of_mem _ (ih (by simpa [countOf, he] using h))

/-- R130: every byte of the message stands in its table. -/
theorem mem_syms_countFrequencies {l : List Byte} {m : Byte} (h : m ∈ l) : m ∈ (countFrequencies l).map Prod.fst :=
  mem_syms_of_countOf_ne_zero (by rw [countOf_countFrequencies]; exact (List.count_pos_iff.mpr h).ne')

/-! ### ENCODE and WRITE_HDR -/

/-- R163: with a code for every byte and room behind the header, ENCODE writes the payload. -/
theorem stageEncode_of_codes {s : State} (hv : s.valid.ctV = true) (hl : s.msgLen.toNat ≤ s.caps.msgCap)
    (hm : ∀ m ∈ s.message, tooWide s.sym8 m = false ∧ (ctAt s.tables.ct m).isSome = true)
    (hfit : headerLen s.tables.ftN.val + ceil8 (encodeBits s.tables.ct s.message).length ≤ s.caps.contCap) :
    stageEncode s = encodeWrite s (encodeBits s.tables.ct s.message).length := by
  have hsize := sizeLoop_of_codes (i := 0) (n := 0) hm
  rw [Nat.zero_add] at hsize
  rw [stageEncode, require_ok ((Valid.missing_ct _).mpr hv)]
  simp only [encodeBody, if_neg (Nat.not_lt.mpr hl), hsize, if_neg (Nat.not_lt.mpr hfit)]

/-- A padding count as PAD_R holds it, widened to the header's byte. -/
theorem setWidth_padOf (n : Nat) : (BitVec.ofNat 3 (padOf n)).setWidth 8 = BitVec.ofNat 8 (padOf n) := by
  have := padOf_lt n
  interval_cases padOf n <;> rfl

/-- The storage with the payload descriptors of a container (R163, R171). -/
def Tables.withPayload (t : Tables) (bitLen : Word) (pad : BitVec 3) (payOff payLen : Word) : Tables :=
  { t with bitLen := bitLen, pad := pad, payOff := payOff, payLen := payLen }

section WithPayload

variable (t : Tables) (bitLen : Word) (pad : BitVec 3) (payOff payLen : Word)

@[simp] theorem Tables.withPayload_ft : (t.withPayload bitLen pad payOff payLen).ft = t.ft := rfl
@[simp] theorem Tables.withPayload_arena : (t.withPayload bitLen pad payOff payLen).arena = t.arena := rfl
@[simp] theorem Tables.withPayload_root : (t.withPayload bitLen pad payOff payLen).root = t.root := rfl
@[simp] theorem Tables.withPayload_ct : (t.withPayload bitLen pad payOff payLen).ct = t.ct := rfl

end WithPayload

/-- The state with a container of its table around some payload bits, and VALID saying so (R105, R163, R171). -/
def State.withContainer (s : State) (bits : Bits) : State :=
  ((((s.contWrite (headerLen s.tables.ftN.val) (pack bits).1).contWrite 0
    (headerBytes s.tables.ft (BitVec.ofNat 8 (pack bits).2))).setContLen
    (BitVec.ofNat 32 (headerLen s.tables.ftN.val + ceil8 bits.length))).setTables
    (s.tables.withPayload (BitVec.ofNat 32 bits.length) (BitVec.ofNat 3 (pack bits).2)
      (BitVec.ofNat 32 (headerLen s.tables.ftN.val)) (BitVec.ofNat 32 (ceil8 bits.length)))).setValid
    s.valid.afterEncode.afterWriteHdr

section WithContainer

variable (s : State) (bits : Bits)

@[simp] theorem State.withContainer_ft : (s.withContainer bits).tables.ft = s.tables.ft := Tables.withPayload_ft ..
@[simp] theorem State.withContainer_arena : (s.withContainer bits).tables.arena = s.tables.arena :=
  Tables.withPayload_arena ..
@[simp] theorem State.withContainer_root : (s.withContainer bits).tables.root = s.tables.root :=
  Tables.withPayload_root ..
@[simp] theorem State.withContainer_ct : (s.withContainer bits).tables.ct = s.tables.ct := Tables.withPayload_ct ..

end WithContainer

/-- COMPRESS's last two stages (R191). -/
theorem encodeWriteHdr_of_codes {s : State} (hk : s.caps.wf = true) (hv : s.valid.ctV = true)
    (hl : s.msgLen.toNat ≤ s.caps.msgCap)
    (hm : ∀ m ∈ s.message, tooWide s.sym8 m = false ∧ (ctAt s.tables.ct m).isSome = true)
    (hfit : headerLen s.tables.ftN.val + ceil8 (encodeBits s.tables.ct s.message).length ≤ s.caps.contCap) :
    (stageEncode s).andThen stageWriteHdr = .ok (s.withContainer (encodeBits s.tables.ct s.message)) := by
  have hcap := Caps.wf_contCap hk
  have hwrite : ∀ t : State, t.valid.encV = true → stageWriteHdr t = writeHdrBody t := fun t h =>
    require_ok ((Valid.missing_enc _).mpr h)
  rw [stageEncode_of_codes hv hl hm hfit, encodeWrite, Stage.andThen_ok, hwrite _ rfl]
  generalize encodeBits s.tables.ct s.message = bits at hfit ⊢
  have hlen : (BitVec.ofNat 32 bits.length).toNat = bits.length := toNat_ofNat_of_lt (by unfold ceil8 at hfit; omega)
  have hpad : (BitVec.ofNat 3 (pack bits).2).setWidth 8 = BitVec.ofNat 8 (pack bits).2 := setWidth_padOf bits.length
  simp only [writeHdrBody, State.setValid_tables, State.setTables_tables, hlen, hpad, State.setValid_contWrite,
    State.setTables_contWrite, State.setValid_setContLen, State.setTables_setContLen, State.setValid_setTables,
    State.setTables_setTables, State.setValid_setValid]
  rfl

/-- Two writes side by side read back together. -/
theorem Buffer.readList_writeList_front {cap : Nat} (b : Buffer) {l m : List Byte} (h : l.length + m.length ≤ cap) :
    ((b.writeList cap l.length m).writeList cap 0 l).readList cap 0 (l.length + m.length) = l ++ m := by
  have hl : ((b.writeList cap l.length m).writeList cap 0 l).readList cap 0 l.length = l :=
    Buffer.readList_writeList (by omega)
  have hm : ((b.writeList cap l.length m).writeList cap 0 l).readList cap l.length m.length = m := by
    rw [Buffer.readList_writeList_outside (by omega), Buffer.readList_writeList h]
  rw [Buffer.readList_append, hl, Nat.zero_add, hm]

/-- R105: the container reads back. -/
theorem State.container_withContainer {s : State} {bits : Bits} (hk : s.caps.wf = true)
    (hfit : headerLen s.tables.ftN.val + ceil8 bits.length ≤ s.caps.contCap) :
    (s.withContainer bits).container = headerBytes s.tables.ft (BitVec.ofNat 8 (pack bits).2) ++ (pack bits).1 := by
  have hcap := Caps.wf_contCap hk
  have hH : (headerBytes s.tables.ft (BitVec.ofNat 8 (pack bits).2)).length = headerLen s.tables.ftN.val := by
    rw [headerBytes_length, Tables.ft_length]
  have hP := pack_length bits
  have hlen : (s.withContainer bits).contLen.toNat = headerLen s.tables.ftN.val + ceil8 bits.length :=
    toNat_ofNat_of_lt (by omega)
  rw [State.container, hlen, ← hH, ← hP]
  simp only [State.withContainer, State.setValid_contBuf, State.setTables_contBuf, State.setContLen_contBuf,
    State.contWrite_contBuf, State.setValid_caps, State.setTables_caps, State.setContLen_caps, State.contWrite_caps, ← hH]
  exact Buffer.readList_writeList_front _ (by omega)

/-- The payload descriptors fit their registers (R105, R161). -/
theorem State.withContainer_fields {s : State} {bits : Bits} (hk : s.caps.wf = true)
    (hfit : headerLen s.tables.ftN.val + ceil8 bits.length ≤ s.caps.contCap) :
    (s.withContainer bits).contLen.toNat = headerLen s.tables.ftN.val + ceil8 bits.length ∧
      (s.withContainer bits).tables.bitLen.toNat = bits.length ∧
      (s.withContainer bits).tables.pad.toNat = (pack bits).2 ∧
      (s.withContainer bits).tables.payOff.toNat = headerLen s.tables.ftN.val ∧
      (s.withContainer bits).tables.payLen.toNat = ceil8 bits.length := by
  have hcap := Caps.wf_contCap hk
  have hbits : bits.length < 2 ^ 32 := by unfold ceil8 at hfit; omega
  exact ⟨toNat_ofNat_of_lt (by omega), toNat_ofNat_of_lt hbits, toNat_ofNat_of_lt (padOf_lt bits.length),
    toNat_ofNat_of_lt (by omega), toNat_ofNat_of_lt (by omega)⟩

/-- R191: COMPRESS of a message in bounds whose container fits. -/
theorem stageCompress_of_bounds {s : State} {ft : FreqTable} {bits : Bits} (hk : s.caps.wf = true)
    (hl : s.msgLen.toNat ≤ s.caps.msgCap) (hw : ∀ m ∈ s.message, tooWide s.sym8 m = false)
    (hc : ∀ m, s.message.count m ≤ 65535) (hft : ft = countFrequencies s.message)
    (hbits : bits = encodeBits (codesOf ft s.tables.nodes) s.message)
    (hfit : headerLen ft.length + ceil8 bits.length ≤ s.caps.contCap) :
    stageCompress s = .ok ((s.codedFor ft).withContainer bits) := by
  have hn := hft ▸ countFrequencies_nodup s.message
  have hb := hft ▸ countFrequencies_bounds_of_count hc
  have hcodes : ∀ m ∈ (s.codedFor ft).message, tooWide s.sym8 m = false ∧
      (ctAt (s.codedFor ft).tables.ct m).isSome = true := fun m hm =>
    ⟨hw m hm, s.tables.codedFor_isSome hn hb (hft ▸ mem_syms_countFrequencies hm)⟩
  rw [← s.tables.codedFor_ftN hn hb, hbits] at hfit
  rw [stageCompress, countBuildGen_of_bounds hl hw hc, ← hft, Stage.andThen_ok,
    encodeWriteHdr_of_codes (s := s.codedFor ft) hk rfl hl hcodes hfit, hbits]
  rfl

/-- What a successful COMPRESS changes (R191). -/
theorem State.succeed_withContainer (s : State) (ft : FreqTable) (bits : Bits) :
    ((s.codedFor ft).withContainer bits).succeed =
      { s with
        tables := ((s.codedFor ft).withContainer bits).tables
        contBuf := ((s.codedFor ft).withContainer bits).contBuf
        contLen := ((s.codedFor ft).withContainer bits).contLen
        valid := Valid.afterCount.afterBuild.afterGen.afterEncode.afterWriteHdr
        engine := .idle, done := true } := by
  simp [State.succeed, State.withContainer, State.codedFor]

/-- Settles O30: the first three stages leave the codes of the message, the last two the container. -/
theorem compressWritesTheContainer : Obligations.CompressWritesTheContainer := by
  intro s ft bits hk hl hw hc hft hbits hfit
  have hn := hft ▸ countFrequencies_nodup s.message
  have hb := hft ▸ countFrequencies_bounds_of_count hc
  refine ⟨_, exec_eq .compress s, ?_⟩
  simp only [stageOf, stageCompress_of_bounds hk hl hw hc hft hbits hfit, Stage.complete_ok]
  refine ⟨s.succeed_withContainer ft bits, ?_⟩
  have hft' : (s.codedFor ft).tables.ft = ft := s.tables.codedFor_ft hn hb
  have hftN : (s.codedFor ft).tables.ftN.val = ft.length := s.tables.codedFor_ftN hn hb
  have htree : ((s.codedFor ft).tables.arena, (s.codedFor ft).tables.root) = buildTree (s.codedFor ft).tables.ft :=
    s.tables.codedFor_treeOk hn hb
  rw [← hftN] at hfit
  have hcont := State.container_withContainer (s := s.codedFor ft) hk hfit
  obtain ⟨hlen, hbitLen, hpad, hoff, hpay⟩ := State.withContainer_fields (s := s.codedFor ft) hk hfit
  rw [hft'] at hcont htree
  rw [hftN] at hlen hoff
  simp only [State.succeed_tables, State.succeed_contLen, State.withContainer_ft, State.withContainer_arena,
    State.withContainer_root, State.withContainer_ct]
  refine ⟨hft', htree, rfl, ?_, hcont, hbitLen, hpad, hoff, hpay⟩
  rw [hlen, headerLen]
  omega

end Sys2Proof.Machine
end

section
/-! PROOFS. COUNT (40_frequency_counter.md rules R130–R132): the table of a message that grows by one byte at its end, and R131's
loop cut at the offending byte. -/

namespace Sys2Proof.Machine

/-! ### The table of a message (R130) -/

theorem countFrequencies_concat (l : List Byte) (m : Byte) : countFrequencies (l ++ [m]) = bump m (countFrequencies l) :=
  List.foldl_append

theorem eraseDups_concat (l : List Byte) (m : Byte) :
    (l ++ [m]).eraseDups = if m ∈ l then l.eraseDups else l.eraseDups ++ [m] := by
  rw [List.eraseDups_append]
  by_cases h : m ∈ l <;> simp [List.removeAll, List.eraseDups_cons, h]

/-- The symbols stand in order of first occurrence. -/
theorem countFrequencies_syms (l : List Byte) : (countFrequencies l).map Prod.fst = l.eraseDups := by
  induction l using List.reverseRecOn with
  | nil => rfl
  | append_singleton l m ih => simp only [countFrequencies_concat, bump_syms, ih, eraseDups_concat, List.mem_eraseDups]

theorem count_of_mem_countFrequencies {l : List Byte} {e : Byte × Nat} (he : e ∈ countFrequencies l) :
    e.2 = l.count e.1 := by
  rw [← countOf_countFrequencies, countOf_eq_of_mem (countFrequencies_nodup l) he]

theorem sum_counts_bump (m : Byte) (t : FreqTable) : ((bump m t).map Prod.snd).sum = (t.map Prod.snd).sum + 1 := by
  induction t with
  | nil => rfl
  | cons e t ih =>
    obtain ⟨x, n⟩ := e
    unfold bump
    split
    · simp only [List.map_cons, List.sum_cons]; omega
    · simp only [List.map_cons, List.sum_cons, ih]; omega

/-- R132: the counts sum to the message's length. -/
theorem sum_countFrequencies (l : List Byte) : ((countFrequencies l).map Prod.snd).sum = l.length := by
  induction l using List.reverseRecOn with
  | nil => rfl
  | append_singleton l m ih => rw [countFrequencies_concat, sum_counts_bump, ih, List.length_append, List.length_singleton]

/-- R132: one entry for each distinct byte. -/
theorem length_countFrequencies (l : List Byte) : (countFrequencies l).length = l.toFinset.card := by
  have hsyms : ((countFrequencies l).map Prod.fst).toFinset = l.toFinset := by
    ext m
    rw [countFrequencies_syms, List.mem_toFinset, List.mem_eraseDups, List.mem_toFinset]
  rw [← hsyms, List.toFinset_card_of_nodup (countFrequencies_nodup l), List.length_map]

/-! ### The loop and the offending byte (R131) -/

theorem countLoop_append (sym8 : Bool) (l l' : List Byte) (i : Nat) (t : FreqTable) :
    countLoop sym8 (l ++ l') i t = (countLoop sym8 l i t).bind (countLoop sym8 l' (i + l.length)) := by
  induction l generalizing i t with
  | nil => rfl
  | cons m l ih =>
    simp only [List.cons_append, countLoop]
    split
    · rfl
    split
    · rfl
    · rw [ih, List.length_cons, Nat.add_right_comm, Nat.add_assoc]

section Offending

variable {sym8 : Bool} {pre post : List Byte} {m : Byte} (hw : ∀ x ∈ pre, tooWide sym8 x = false)
  (hc : ∀ x, pre.count x ≤ 65535)

include hw hc

/-- Bytes that pass every check are counted, and the loop goes on behind them. -/
theorem countLoop_of_checked :
    countLoop sym8 (pre ++ m :: post) 0 [] = countLoop sym8 (m :: post) pre.length (countFrequencies pre) := by
  have hpre : countLoop sym8 pre 0 [] = .ok (countFrequencies pre) :=
    countLoop_of_bounds hw fun x => by simpa [countOf] using hc x
  rw [countLoop_append, hpre, Nat.zero_add]
  rfl

theorem countLoop_tooWide (hm : tooWide sym8 m = true) :
    countLoop sym8 (pre ++ m :: post) 0 [] = .error { code := .symbolWidth, info := symbolInfo m pre.length } := by
  rw [countLoop_of_checked hw hc, countLoop, if_pos hm]

theorem countLoop_overflow (hm : tooWide sym8 m = false) (hfull : pre.count m = 65535) :
    countLoop sym8 (pre ++ m :: post) 0 [] = .error { code := .freqOverflow, info := symbolInfo m pre.length } := by
  have hcount : countOf m (bump m (countFrequencies pre)) = 65536 := by
    rw [countOf_bump, countOf_countFrequencies, hfull, if_pos rfl]
  rw [countLoop_of_checked hw hc, countLoop, if_neg (Bool.eq_false_iff.mp hm), if_pos hcount]

end Offending

/-! ### The command -/

/-- A failing COUNT or READ_HDR completes with the failure's effects (R131, R172, R206). -/
theorem complete_loseTablesWith (s : State) (e : CmdError) :
    (loseTablesWith s e).complete = s.tablesFailure e.code e.info := rfl

theorem exec_count_of_error {s : State} {e : CmdError} (hl : s.msgLen.toNat ≤ s.caps.msgCap)
    (he : countLoop s.sym8 s.message 0 [] = .error e) : exec .count s = .next (s.tablesFailure e.code e.info) := by
  rw [exec_eq, stageOf, stageCount, if_neg (Nat.not_lt.mpr hl), he, complete_loseTablesWith]

theorem State.message_length (s : State) : s.message.length = s.msgLen.toNat := Buffer.readList_length ..

/-- Settles O8: the stage stores the table, whose counts fit their fields. -/
theorem countTabulatesTheMessage : Obligations.CountTabulatesTheMessage := by
  intro s hl hw hc
  refine ⟨?_, ?_, countFrequencies_syms _, fun _ => count_of_mem_countFrequencies⟩
  · rw [exec_eq, stageOf, stageCount_of_bounds hl hw hc]
    rfl
  · exact s.tables.ft_setFt_of_bounds (countFrequencies_nodup _) (countFrequencies_bounds_of_count hc)

/-- Settles O9: with FT_V set the table stored is the message's. -/
theorem countedTableMeasuresTheMessage : Obligations.CountedTableMeasuresTheMessage := by
  intro s t h hv
  rw [exec_eq] at h
  cases h
  rw [Stage.complete_valid, stageOf] at hv
  rw [Stage.complete_tables, stageOf]
  rcases stageCount_state s with hs | ⟨hloop, hs⟩ <;> rw [hs] at hv ⊢
  · exact nomatch hv
  · have hbounds := countFrequencies_bounds hloop
    have hft := s.tables.ft_setFt_of_bounds (countFrequencies_nodup s.message) hbounds
    rw [State.setValid_tables, State.setTables_tables, ← Tables.ft_length, hft]
    exact ⟨length_countFrequencies _, (sum_countFrequencies _).trans s.message_length, hbounds⟩

/-- Settles O10: the bytes in front of the offending one pass, and the loop stops at it. -/
theorem countReportsTheFirstOffendingByte : Obligations.CountReportsTheFirstOffendingByte := by
  refine ⟨fun s hl => ?_, fun s pre post m hl hmsg hw hc => ⟨fun hm => ?_, fun hm hfull => ?_⟩⟩
  · rw [exec_eq, stageOf, stageCount, if_pos hl, complete_loseTablesWith]
  · exact exec_count_of_error hl (hmsg ▸ countLoop_tooWide hw hc hm)
  · exact exec_count_of_error hl (hmsg ▸ countLoop_overflow hw hc hm hfull)

end Sys2Proof.Machine
end

section
/-! PROOFS. Which tables each single command leaves unchanged (40_frequency_counter.md rule R131 to 46_top.md rule R190): the
state a stage leaves names every field it stores. -/

namespace Sys2Proof.Machine

section Tables

variable (s : State)

theorem stageCount_tables (hv : (stageCount s).state.valid.ftV = true) :
    (stageCount s).state.tables = s.tables.setFt (countFrequencies s.message) := by
  rcases stageCount_state s with h | ⟨-, h⟩ <;> rw [h] at hv ⊢
  · exact nomatch hv
  · rfl

theorem stageBuild_tables :
    (stageBuild s).state.tables = s.tables ∨ (stageBuild s).state.tables = s.tables.setTree (buildTree s.tables.ft) := by
  rcases stageBuild_state s with h | ⟨-, h⟩
  · exact .inl (congrArg State.tables h)
  · exact .inr (congrArg State.tables h)

theorem stageGen_tables : ∃ ct, (stageGen s).state.tables = { s.tables with ct := ct } := by
  rcases stageGen_state s with h | ⟨-, h⟩ <;> rw [h] <;> exact ⟨_, rfl⟩

theorem stageEncode_tables :
    ∃ pad bitLen, (stageEncode s).state.tables = { s.tables with pad := pad, bitLen := bitLen } := by
  rcases stageEncode_state s with h | h | ⟨-, -, h⟩ <;> rw [h] <;> exact ⟨_, _, rfl⟩

theorem stageWriteHdr_tables :
    ∃ payOff payLen, (stageWriteHdr s).state.tables = { s.tables with payOff := payOff, payLen := payLen } := by
  rcases stageWriteHdr_state s with h | ⟨-, h⟩ <;> rw [h] <;> exact ⟨_, _, rfl⟩

theorem stageReadHdr_tables (hv : (stageReadHdr s).state.valid.ftV = true) :
    ∃ h len, (stageReadHdr s).state.tables = s.tables.setHeader h len := by
  rcases stageReadHdr_state s with h | ⟨-, hd, -, h⟩ <;> rw [h] at hv ⊢
  · exact nomatch hv
  · exact ⟨hd, _, rfl⟩

theorem stageDecode_tables : (stageDecode s).state.tables = s.tables := by
  rcases stageDecode_state s with h | ⟨out, h⟩ | h <;> rw [h] <;> rfl

end Tables

/-- Settles O60: the tables each stage leaves, one lemma a stage. -/
theorem stagesLeaveOtherTablesAlone : Obligations.StagesLeaveOtherTablesAlone := by
  intro i s t h
  rw [exec_eq] at h
  cases h
  rw [Stage.complete_valid, Stage.complete_tables]
  refine ⟨fun hi => ?_, ?_, ?_, ?_, ?_, ?_, ?_⟩
  · rcases List.mem_pair.mp hi with rfl | rfl
    · rfl
    · exact stageDecode_tables s
  · rintro rfl hv
    rw [stageOf, stageCount_tables s hv]
    rfl
  · rintro rfl
    rcases stageBuild_tables s with h | h <;> rw [stageOf, h]
    rfl
  · rintro rfl
    obtain ⟨ct, h⟩ := stageGen_tables s
    rw [stageOf, h]
  · rintro rfl
    obtain ⟨pad, bitLen, h⟩ := stageEncode_tables s
    rw [stageOf, h]
  · rintro rfl
    obtain ⟨payOff, payLen, h⟩ := stageWriteHdr_tables s
    rw [stageOf, h]
  · rintro rfl hv
    obtain ⟨hd, len, h⟩ := stageReadHdr_tables s hv
    rw [stageOf, h]
    rfl

end Sys2Proof.Machine
end

section
/-! PROOFS. Which commands write the buffers and length registers, and where (43_encoder.md rule R163 to 46_top.md rule R193):
the updates each command is made of, what COMPRESS and DECOMPRESS leave where a stage fails, and the bytes a success writes. -/

namespace Sys2Proof.Machine

/-! ### The updates a command is made of -/

/-- A property of states that a table, VALID or draw update keeps. -/
structure TableBlind (P : State → Prop) : Prop where
  setTables : ∀ s t, P s → P (s.setTables t)
  setValid : ∀ s v, P s → P (s.setValid v)
  nextDraw : ∀ s, P s → P s.nextDraw

section Stages

variable {P : State → Prop} (hP : TableBlind P) {s : State} (hs : P s)

include hP hs

theorem TableBlind.loseTables : P (s.loseTables.setValid Valid.clear) :=
  hP.setValid _ _ (hP.nextDraw _ (hP.setTables _ _ hs))

theorem TableBlind.count : P (stageCount s).state := by
  rcases stageCount_state s with h | ⟨-, h⟩ <;> rw [h]
  · exact hP.loseTables hs
  · exact hP.setValid _ _ (hP.setTables _ _ hs)

theorem TableBlind.build : P (stageBuild s).state := by
  rcases stageBuild_state s with h | ⟨-, h⟩ <;> rw [h]
  · exact hs
  · exact hP.setValid _ _ (hP.setTables _ _ hs)

theorem TableBlind.gen : P (stageGen s).state := by
  rcases stageGen_state s with h | ⟨-, h⟩ <;> rw [h]
  · exact hs
  · exact hP.setValid _ _ (hP.setTables _ _ hs)

theorem TableBlind.readHdr : P (stageReadHdr s).state := by
  rcases stageReadHdr_state s with h | ⟨-, hd, -, h⟩ <;> rw [h]
  · exact hP.loseTables hs
  · exact hP.setValid _ _ (hP.setTables _ _ hs)

theorem TableBlind.encode (hcont : ∀ s b, P s → P (s.setContBuf b)) : P (stageEncode s).state := by
  rcases stageEncode_state s with h | h | ⟨-, -, h⟩ <;> rw [h]
  · exact hs
  · exact hP.setValid _ _ hs
  · exact hP.setValid _ _ (hP.setTables _ _ (hcont _ _ hs))

theorem TableBlind.writeHdr (hcont : ∀ s b, P s → P (s.setContBuf b)) (hlen : ∀ s n, P s → P (s.setContLen n)) :
    P (stageWriteHdr s).state := by
  rcases stageWriteHdr_state s with h | ⟨-, h⟩ <;> rw [h]
  · exact hs
  · exact hP.setValid _ _ (hP.setTables _ _ (hlen _ _ (hcont _ _ hs)))

theorem TableBlind.decode (hmsg : ∀ s b, P s → P (s.setMsgBuf b)) (hlen : ∀ s n, P s → P (s.setMsgLen n)) :
    P (stageDecode s).state := by
  rcases stageDecode_state s with h | ⟨out, h⟩ | h <;> rw [h]
  · exact hs
  · exact hlen _ _ (hmsg _ _ hs)
  · exact hlen _ _ (hP.nextDraw _ (hmsg _ _ hs))

/-- COMPRESS's stages in front of ENCODE (R191). -/
theorem TableBlind.countBuildGen : P (((stageCount s).andThen stageBuild).andThen stageGen).state :=
  Stage.andThen_state (Stage.andThen_state (hP.count hs) fun _ => hP.build) fun _ => hP.gen

/-- DECOMPRESS's stages in front of DECODE, and INSPECT (R192, R193). -/
theorem TableBlind.readHdrBuild : P ((stageReadHdr s).andThen stageBuild).state :=
  Stage.andThen_state (hP.readHdr hs) fun _ => hP.build

/-- A table-blind property that the buffer and length updates of the commands that make them keep is kept by every
command. -/
theorem TableBlind.stageOf (i : Instr)
    (hmsg : i ∈ [Instr.decode, .decompress] → (∀ s b, P s → P (s.setMsgBuf b)) ∧ ∀ s n, P s → P (s.setMsgLen n))
    (hcont : i ∈ [Instr.encode, .writeHdr, .compress] → ∀ s b, P s → P (s.setContBuf b))
    (hlen : i ∈ [Instr.writeHdr, .compress] → ∀ s n, P s → P (s.setContLen n)) : P (stageOf i s).state := by
  cases i with
  | nop => exact hs
  | count => exact hP.count hs
  | build => exact hP.build hs
  | gen => exact hP.gen hs
  | encode => exact hP.encode hs (hcont (by decide))
  | writeHdr => exact hP.writeHdr hs (hcont (by decide)) (hlen (by decide))
  | readHdr => exact hP.readHdr hs
  | decode =>
    obtain ⟨hbuf, hmlen⟩ := hmsg (by decide)
    exact hP.decode hs hbuf hmlen
  | compress =>
    have hbuf := hcont (by decide)
    have hclen := hlen (by decide)
    exact Stage.onError_state (Stage.andThen_state (Stage.andThen_state (hP.countBuildGen hs)
      fun _ h => hP.encode h hbuf) fun _ h => hP.writeHdr h hbuf hclen) fun _ => hclen _ _
  | decompress =>
    obtain ⟨hbuf, hmlen⟩ := hmsg (by decide)
    exact Stage.onError_state (Stage.andThen_state (hP.readHdrBuild hs) fun _ h => hP.decode h hbuf hmlen)
      fun _ => hmlen _ _
  | inspect => exact hP.readHdrBuild hs

end Stages

/-- Same buffers and capacities as `s`. -/
def State.sameBuffers (s t : State) : Prop := t.msgBuf = s.msgBuf ∧ t.contBuf = s.contBuf ∧ t.caps = s.caps

theorem sameBuffers_tableBlind (s : State) : TableBlind s.sameBuffers := ⟨fun _ _ h => h, fun _ _ h => h, fun _ h => h⟩

theorem stageOf_sameMsg {i : Instr} (hi : i ∉ [Instr.decode, .decompress]) (s : State) :
    (stageOf i s).state.msgBuf = s.msgBuf ∧ (stageOf i s).state.msgLen = s.msgLen :=
  TableBlind.stageOf (P := fun t => t.msgBuf = s.msgBuf ∧ t.msgLen = s.msgLen)
    ⟨fun _ _ h => h, fun _ _ h => h, fun _ h => h⟩ ⟨rfl, rfl⟩ i (fun h => absurd h hi) (fun _ _ _ h => h) fun _ _ _ h => h

theorem stageOf_sameContBuf {i : Instr} (hi : i ∉ [Instr.encode, .writeHdr, .compress]) (s : State) :
    (stageOf i s).state.contBuf = s.contBuf :=
  TableBlind.stageOf (P := fun t => t.contBuf = s.contBuf) ⟨fun _ _ h => h, fun _ _ h => h, fun _ h => h⟩ rfl i
    (fun _ => ⟨fun _ _ h => h, fun _ _ h => h⟩) (fun h => absurd h hi) fun _ _ _ h => h

theorem stageOf_sameContLen {i : Instr} (hi : i ∉ [Instr.writeHdr, .compress]) (s : State) :
    (stageOf i s).state.contLen = s.contLen :=
  TableBlind.stageOf (P := fun t => t.contLen = s.contLen) ⟨fun _ _ h => h, fun _ _ h => h, fun _ h => h⟩ rfl i
    (fun _ => ⟨fun _ _ h => h, fun _ _ h => h⟩) (fun _ _ _ h => h) fun h => absurd h hi

/-- No stage touches ERR: only a failing completion sets it (R206). -/
theorem stageOf_sameErr (i : Instr) (s : State) : (stageOf i s).state.err = s.err :=
  TableBlind.stageOf (P := fun t => t.err = s.err) ⟨fun _ _ h => h, fun _ _ h => h, fun _ h => h⟩ rfl i
    (fun _ => ⟨fun _ _ h => h, fun _ _ h => h⟩) (fun _ _ _ h => h) fun _ _ _ h => h

/-! ### Completion, and which stage ended a command -/

@[simp] theorem Stage.complete_msgRead (r : Stage) (a : Nat) : r.complete.msgRead a = r.state.msgRead a := by
  cases r <;> rfl

@[simp] theorem Stage.complete_contRead (r : Stage) (a : Nat) : r.complete.contRead a = r.state.contRead a := by
  cases r <;> rfl

theorem Stage.andThen_eq_ok {r : Stage} {f : State → Stage} {v : State} (h : r.andThen f = .ok v) :
    ∃ u, r = .ok u ∧ f u = .ok v := by
  cases r with
  | ok u => exact ⟨u, rfl, h⟩
  | err u e => cases h

theorem Stage.andThen_eq_err {r : Stage} {f : State → Stage} {v : State} {e : CmdError} (h : r.andThen f = .err v e) :
    r = .err v e ∨ ∃ u, r = .ok u ∧ f u = .err v e := by
  cases r with
  | ok u => exact .inr ⟨u, rfl, h⟩
  | err u e' => exact .inl h

theorem Stage.onError_eq_ok {r : Stage} {f : State → State} {v : State} (h : r.onError f = .ok v) : r = .ok v := by
  cases r with
  | ok u => exact h
  | err u e => cases h

theorem Stage.onError_eq_err {r : Stage} {f : State → State} {v : State} {e : CmdError} (h : r.onError f = .err v e) :
    ∃ u, r = .err u e ∧ v = f u := by
  cases r with
  | ok u => cases h
  | err u e' => cases h; exact ⟨u, rfl, rfl⟩

theorem Stage.eq_ok_of_complete_err_eq_false {r : Stage} (h : r.complete.err = false) : ∃ v, r = .ok v := by
  cases r with
  | ok v => exact ⟨v, rfl⟩
  | err v e => cases h

/-- From ERR = 0, a command that leaves ERR = 1 has failed. -/
theorem stageOf_eq_err {i : Instr} {s : State} (hs : s.err = false) (h : (stageOf i s).complete.err = true) :
    ∃ v e, stageOf i s = .err v e := by
  have herr := stageOf_sameErr i s
  cases hr : stageOf i s with
  | ok v =>
    rw [hr] at h herr
    rw [Stage.state_ok] at herr
    rw [Stage.complete_ok, State.succeed_err, herr, hs] at h
    cases h
  | err v e => exact ⟨v, e, rfl⟩

/-! ### ENCODE, WRITE_HDR and COMPRESS -/

/-- R163: ENCODE stores in its payload bytes only. -/
theorem contRead_stageEncode {s : State} {a : Nat}
    (ha : a < headerLen s.tables.ftN.val ∨
      headerLen s.tables.ftN.val + (pack (encodeBits s.tables.ct s.message)).1.length ≤ a) :
    (stageEncode s).state.contRead a = s.contRead a := by
  rcases stageEncode_state s with h | h | ⟨-, -, h⟩ <;> rw [h]
  · rfl
  · exact Buffer.read_writeList_outside ha

/-- R171: WRITE_HDR stores in the header only. -/
theorem contRead_stageWriteHdr {s : State} {a : Nat} (ha : headerLen s.tables.ftN.val ≤ a) :
    (stageWriteHdr s).state.contRead a = s.contRead a := by
  rcases stageWriteHdr_state s with h | ⟨-, h⟩ <;> rw [h]
  refine Buffer.read_writeList_outside (.inr ?_)
  rwa [headerBytes_length, Tables.ft_length, Nat.zero_add]

/-- ENCODE with WRITE_HDR behind it: a failure that stores in no buffer, or a container that fits (R191). -/
theorem encodeWriteHdr_cases {s : State} (hk : s.caps.wf = true) :
    (∃ v e, (stageEncode s).andThen stageWriteHdr = .err v e ∧ v.contBuf = s.contBuf ∧ v.caps = s.caps) ∨
    (∃ bits, headerLen s.tables.ftN.val + ceil8 bits.length ≤ s.caps.contCap ∧
      (stageEncode s).andThen stageWriteHdr = .ok (s.withContainer bits)) := by
  rcases stageEncode_cases s with ⟨hv, h⟩ | ⟨-, h⟩
  · rcases encodeBody_cases s with ⟨e, hb⟩ | ⟨hl, hm, hfit, -⟩
    · exact .inl ⟨s.setValid s.valid.afterEncodeFailure, e, by rw [h, hb, encodeFails, Stage.andThen_err], rfl, rfl⟩
    · exact .inr ⟨_, hfit, encodeWriteHdr_of_codes hk hv hl hm hfit⟩
  · exact .inl ⟨s, _, by rw [h, Stage.andThen_err], rfl, rfl⟩

/-- Both of a container's writes end where its CONT_LEN says. -/
theorem contRead_withContainer {s : State} {bits : Bits} (hk : s.caps.wf = true)
    (hfit : headerLen s.tables.ftN.val + ceil8 bits.length ≤ s.caps.contCap) {a : Nat}
    (ha : (s.withContainer bits).contLen.toNat ≤ a) : (s.withContainer bits).contRead a = s.contRead a := by
  obtain ⟨hlen, -⟩ := State.withContainer_fields hk hfit
  rw [hlen] at ha
  have hheader : 0 + (headerBytes s.tables.ft (BitVec.ofNat 8 (pack bits).2)).length ≤ a := by
    rw [headerBytes_length, Tables.ft_length]
    omega
  exact (Buffer.read_writeList_outside (.inr hheader)).trans
    (Buffer.read_writeList_outside (.inr (by rwa [pack_length])))

/-- R191: COMPRESS stores below its CONT_LEN only, which a failure makes 0. -/
theorem contRead_stageCompress {s : State} (hk : s.caps.wf = true) {a : Nat}
    (ha : (stageCompress s).state.contLen.toNat ≤ a) : (stageCompress s).state.contRead a = s.contRead a := by
  have hfirst := (sameBuffers_tableBlind s).countBuildGen (s := s) ⟨rfl, rfl, rfl⟩
  have hread : ∀ v : State, v.contBuf = s.contBuf → v.caps = s.caps → v.contRead a = s.contRead a := fun v hb hc => by
    rw [State.contRead, hb, hc, State.contRead]
  rw [stageCompress] at ha ⊢
  cases hr : ((stageCount s).andThen stageBuild).andThen stageGen with
  | err v e =>
    rw [hr] at hfirst
    obtain ⟨-, hcont, hcaps⟩ := hfirst
    exact hread _ hcont hcaps
  | ok u =>
    rw [hr] at hfirst ha
    obtain ⟨-, hcont, hcaps⟩ := hfirst
    rw [Stage.state_ok] at hcont hcaps
    have hku : u.caps.wf = true := hcaps ▸ hk
    rw [Stage.andThen_ok] at ha ⊢
    rcases encodeWriteHdr_cases hku with ⟨v, e, h, hvcont, hvcaps⟩ | ⟨bits, hfit, h⟩ <;> rw [h] at ha ⊢
    · exact hread _ (hvcont.trans hcont) (hvcaps.trans hcaps)
    · exact (contRead_withContainer hku hfit ha).trans (hread u hcont hcaps)

/-! ### DECODE and DECOMPRESS -/

/-- What R183's loop answers: bytes that fit MSG_BUF, or one of its two errors. -/
def decodeAnswer (cap : Nat) : Except CmdError (List Byte) → Prop
  | .ok out  => out.length ≤ cap
  | .error e => e.code = .malformedStream ∨ e.code = .capacity

theorem walk_answer {cap : Nat} (nodes : Vector Node 511) (root : BitVec 9) (bits : Bits) (j : Nat) (pos : BitVec 9)
    (start : Nat) {out : List Byte} (h : out.length ≤ cap) : decodeAnswer cap (walk cap nodes root bits j pos start out) := by
  induction bits generalizing j pos start out with
  | nil =>
    unfold walk
    split
    · exact h
    · exact .inl rfl
  | cons b bits ih =>
    simp only [walk]
    split
    · split
      · exact .inr rfl
      · exact ih _ _ _ (by rw [List.length_append, List.length_singleton]; omega)
    · exact ih _ _ _ h

theorem decodeMessage_answer (cap : Nat) (t : Tables) (bits : Bits) : decodeAnswer cap (decodeMessage cap t bits) := by
  unfold decodeMessage
  split
  · split
    · exact Nat.zero_le cap
    · exact .inl rfl
  split
  · split
    · split
      · exact .inr rfl
      · rename_i hfit
        exact (List.length_replicate ..).trans_le (Nat.le_of_not_lt hfit)
    · exact .inl rfl
  · exact walk_answer t.nodes t.root bits 0 t.root 0 (Nat.zero_le cap)

/-- DECODE's outcomes (R183): a message that fits, NOT_READY with no effect, or one of the loop's errors. -/
theorem stageDecode_cases_of_answer (s : State) :
    (∃ out, out.length ≤ s.caps.msgCap ∧
      stageDecode s = .ok ((s.msgWrite 0 out).setMsgLen (BitVec.ofNat 32 out.length))) ∨
    (∃ e, stageDecode s = .err s e) ∨
    (∃ e, (e.code = .malformedStream ∨ e.code = .capacity) ∧ stageDecode s = decodeFails s e) := by
  have hans := decodeMessage_answer s.caps.msgCap s.tables (unpack s.payload s.tables.pad.toNat)
  rcases stageDecode_cases s with ⟨-, -, h⟩ | ⟨-, h⟩
  · rcases decodeBody_cases s with ⟨out, hd, hb⟩ | ⟨e, hd, hb⟩ <;> rw [hd] at hans
    · exact .inl ⟨out, hans, h.trans hb⟩
    · exact .inr (.inr ⟨e, hans, h.trans hb⟩)
  · exact .inr (.inl ⟨_, h⟩)

theorem Caps.wf_msgCap {c : Caps} (h : c.wf = true) : c.msgCap ≤ 1048576 := by
  simp only [Caps.wf, Bool.and_eq_true, decide_eq_true_eq] at h
  omega

/-- R183: a successful DECODE stores below its MSG_LEN only. -/
theorem msgRead_of_stageDecode_ok {s v : State} (hk : s.caps.wf = true) (h : stageDecode s = .ok v) {a : Nat}
    (ha : v.msgLen.toNat ≤ a) : v.msgRead a = s.msgRead a := by
  rcases stageDecode_cases_of_answer s with ⟨out, hfit, hd⟩ | ⟨e, hd⟩ | ⟨e, -, hd⟩ <;> rw [hd] at h <;> cases h
  have hcap := Caps.wf_msgCap hk
  have hlen : (BitVec.ofNat 32 out.length).toNat = out.length := toNat_ofNat_of_lt (by omega)
  rw [State.setMsgLen_msgLen, hlen] at ha
  exact Buffer.read_writeList_outside (.inr (by omega))

/-- R192: a successful DECOMPRESS stores below its MSG_LEN only. -/
theorem msgRead_of_stageDecompress_ok {s v : State} (hk : s.caps.wf = true) (h : stageDecompress s = .ok v) {a : Nat}
    (ha : v.msgLen.toNat ≤ a) : v.msgRead a = s.msgRead a := by
  obtain ⟨u, hu, hd⟩ := Stage.andThen_eq_ok (Stage.onError_eq_ok h)
  have hfirst := (sameBuffers_tableBlind s).readHdrBuild (s := s) ⟨rfl, rfl, rfl⟩
  rw [hu] at hfirst
  obtain ⟨hmsg, -, hcaps⟩ := hfirst
  rw [Stage.state_ok] at hmsg hcaps
  rw [msgRead_of_stageDecode_ok (hcaps ▸ hk) hd ha, State.msgRead, hmsg, hcaps, State.msgRead]

/-- R192: a failing DECOMPRESS leaves MSG_LEN = 0, and MSG_BUF as it was unless DECODE's loop failed. -/
theorem msg_of_stageDecompress_err {s v : State} {e : CmdError} (h : stageDecompress s = .err v e) :
    v.msgLen = 0 ∧ (v.msgBuf = s.msgBuf ∨ e.code = .malformedStream ∨ e.code = .capacity) := by
  obtain ⟨u, hu, rfl⟩ := Stage.onError_eq_err h
  refine ⟨rfl, ?_⟩
  have hfirst := (sameBuffers_tableBlind s).readHdrBuild (s := s) ⟨rfl, rfl, rfl⟩
  rcases Stage.andThen_eq_err hu with hr | ⟨w, hr, hd⟩ <;> rw [hr] at hfirst <;> obtain ⟨hmsg, -⟩ := hfirst
  · exact .inl hmsg
  · rcases stageDecode_cases_of_answer w with ⟨out, -, h'⟩ | ⟨e', h'⟩ | ⟨e', hcode, h'⟩ <;> rw [h'] at hd <;> cases hd
    · exact .inl hmsg
    · exact .inr hcode

/-! ### Every command -/

/-- Settles O59: the commands that write no such storage by the updates they are made of, the others by what they write. -/
theorem buffersChangeOnlyWhereCommandsStore : Obligations.BuffersChangeOnlyWhereCommandsStore := by
  intro i s t h
  rw [exec_eq] at h
  cases h
  simp only [Stage.complete_msgBuf, Stage.complete_msgLen, Stage.complete_contBuf, Stage.complete_contLen,
    Stage.complete_msgRead, Stage.complete_contRead]
  refine ⟨fun hi => stageOf_sameMsg hi s, fun hi => stageOf_sameContBuf hi s, fun hi => stageOf_sameContLen hi s, ?_, ?_,
    ?_, ?_, ?_⟩
  · rintro rfl a ha
    exact contRead_stageEncode ha
  · rintro rfl a ha
    exact contRead_stageWriteHdr ha
  · rintro rfl hk a ha
    exact contRead_stageCompress hk ha
  · intro hi hk _ herr a ha
    obtain ⟨v, hv⟩ := Stage.eq_ok_of_complete_err_eq_false herr
    rw [hv] at ha ⊢
    rcases List.mem_pair.mp hi with rfl | rfl
    · exact msgRead_of_stageDecode_ok hk hv ha
    · exact msgRead_of_stageDecompress_ok hk hv ha
  · rintro rfl hs herr
    obtain ⟨v, e, hv⟩ := stageOf_eq_err hs herr
    obtain ⟨hlen, hmsg⟩ := msg_of_stageDecompress_err hv
    rw [hv]
    refine ⟨hlen, fun hcode => hmsg.resolve_right ?_⟩
    rw [Stage.complete_err, State.fail_errCode] at hcode
    rcases hcode with hc | hc <;> rw [hc] <;> decide

end Sys2Proof.Machine
end

section
/-! PROOFS. BUILD (41_tree_builder.md rules R141, R142): the tree it stores, and the stable sort as a selection of the two
nodes smallest in (FREQ, q). -/

namespace Sys2Proof.Machine

/-! ### BUILD's effects (R141) -/

/-- With FT_V set BUILD passes its `require` (R141). -/
theorem stageBuild_of_ftV {s : State} (hv : s.valid.ftV = true) : stageBuild s = buildBody s := by
  rcases stageBuild_cases s with ⟨-, h⟩ | ⟨hno, -⟩
  · exact h
  · exact absurd hv (by simp [hno])

/-- Settles O11: the body's updates are the stated ones, and a stored tree reads back (`Tables.treeOk_setTree`). -/
theorem buildStoresTheTree : Obligations.BuildStoresTheTree := by
  intro s hv
  refine ⟨?_, s.tables.treeOk_setTree, rfl⟩
  rw [exec_eq, stageOf, stageBuild_of_ftV hv]
  rfl

/-! ### The order (FREQ, q) (R142) -/

/-- `(FREQ, q)` of a node, ordered lexicographically. -/
def rank (arena : List Node) (i : Nat) : Nat ×ₗ Nat := toLex (freqOf arena i, i)

theorem rank_le_rank_iff {arena : List Node} {a b : Nat} : rank arena a ≤ rank arena b ↔
    freqOf arena a < freqOf arena b ∨ freqOf arena a = freqOf arena b ∧ a ≤ b := Prod.Lex.toLex_le_toLex

theorem before_iff_rank_le {arena : List Node} {a b : Nat} : before arena a b = true ↔ rank arena a ≤ rank arena b := by
  simp [before, rank_le_rank_iff]

theorem rank_injective (arena : List Node) : Function.Injective (rank arena) := fun _ _ h =>
  congrArg (fun p => (ofLex p).2) h

/-- A working set that stands in the order (FREQ, q). -/
def Ranked (arena : List Node) (w : List Nat) : Prop := w.Pairwise fun a b => rank arena a ≤ rank arena b

/-- Nodes of equal frequency stand in the order of their indices. -/
def TiesInOrder (arena : List Node) (w : List Nat) : Prop := w.Pairwise fun a b => freqOf arena a = freqOf arena b → a ≤ b

theorem Ranked.tiesInOrder {arena : List Node} {w : List Nat} (h : Ranked arena w) : TiesInOrder arena w :=
  h.imp fun hab heq => by
    rcases rank_le_rank_iff.mp hab with hlt | ⟨-, hle⟩
    · exact absurd heq hlt.ne
    · exact hle

/-- R142: the new node's index is greater than every other, so the ties stay in order. -/
theorem TiesInOrder.append_new {arena : List Node} {w : List Nat} (n : Node) (h : TiesInOrder arena w)
    (hw : ∀ i ∈ w, i < arena.length) : TiesInOrder (arena ++ [n]) (w ++ [arena.length]) := by
  refine List.pairwise_append.mpr ⟨h.imp_of_mem fun ha hb hab heq => ?_, List.pairwise_singleton .., fun a ha b hb _ => ?_⟩
  · rw [freqOf_append _ (hw _ ha), freqOf_append _ (hw _ hb)] at heq
    exact hab heq
  · rw [List.mem_singleton.mp hb]
    exact (hw a ha).le

/-! ### The stable sort ranks the working set (R142) -/

/-- Inserting a node in front of its equals keeps the order (FREQ, q), where its index is below theirs. -/
theorem Ranked.orderedInsert {arena : List Node} {a : Nat} {w : List Nat} (hw : Ranked arena w)
    (ha : ∀ b ∈ w, freqOf arena a = freqOf arena b → a ≤ b) :
    Ranked arena (w.orderedInsert (fun a b => freqOf arena a ≤ freqOf arena b) a) := by
  induction w with
  | nil => exact List.pairwise_singleton ..
  | cons b w ih =>
    obtain ⟨hb, hw'⟩ := List.pairwise_cons.mp hw
    rw [List.orderedInsert_cons]
    split
    · next hle =>
      have hab : rank arena a ≤ rank arena b :=
        rank_le_rank_iff.mpr (hle.lt_or_eq.imp_right fun heq => ⟨heq, ha b (by simp) heq⟩)
      exact List.pairwise_cons.mpr ⟨List.forall_mem_cons.mpr ⟨hab, fun c hc => hab.trans (hb c hc)⟩, hw⟩
    · next hlt =>
      refine List.pairwise_cons.mpr ⟨fun c hc => ?_, ih hw' fun c hc => ha c (by simp [hc])⟩
      rcases (List.mem_orderedInsert _).mp hc with rfl | hc
      · exact rank_le_rank_iff.mpr (.inl (Nat.lt_of_not_le hlt))
      · exact hb c hc

theorem ranked_sortWork {arena : List Node} {w : List Nat} (h : TiesInOrder arena w) : Ranked arena (sortWork arena w) := by
  induction w with
  | nil => exact List.Pairwise.nil
  | cons a w ih =>
    obtain ⟨ha, hw⟩ := List.pairwise_cons.mp h
    exact (ih hw).orderedInsert fun b hb => ha b ((sortWork_perm arena w).mem_iff.mp hb)

/-! ### The selection finds the front of a ranked set (R142) -/

theorem leastOf_spec (arena : List Node) (a : Nat) (w : List Nat) :
    leastOf arena a w ∈ a :: w ∧ ∀ b ∈ a :: w, rank arena (leastOf arena a w) ≤ rank arena b := by
  induction w generalizing a with
  | nil => simp [leastOf]
  | cons b w ih =>
    simp only [leastOf, before_iff_rank_le]
    split
    · next hab =>
      obtain ⟨hmem, hle⟩ := ih a
      obtain ⟨hlea, hlew⟩ := List.forall_mem_cons.mp hle
      refine ⟨?_, List.forall_mem_cons.mpr ⟨hlea, List.forall_mem_cons.mpr ⟨hlea.trans hab, hlew⟩⟩⟩
      rcases List.mem_cons.mp hmem with h | h <;> simp [h]
    · next hba =>
      obtain ⟨hmem, hle⟩ := ih b
      have hlea := (List.forall_mem_cons.mp hle).1.trans (le_of_not_ge hba)
      exact ⟨List.mem_cons_of_mem a hmem, List.forall_mem_cons.mpr ⟨hlea, hle⟩⟩

theorem leastOf_of_perm_ranked {arena : List Node} {x a : Nat} {w rest : List Nat} (hp : (x :: w).Perm (a :: rest))
    (hr : Ranked arena (a :: rest)) : leastOf arena x w = a := by
  obtain ⟨hmem, hle⟩ := leastOf_spec arena x w
  refine rank_injective arena (le_antisymm (hle a (hp.mem_iff.mpr (by simp))) ?_)
  rcases List.mem_cons.mp (hp.mem_iff.mp hmem) with h | h
  · rw [h]
  · exact (List.pairwise_cons.mp hr).1 _ h

/-- One iteration of the heap form, where `a` and `b` rank first in the working set. -/
theorem heapLoop_succ_of_ranked {arena : List Node} {w : List Nat} {a b : Nat} {rest : List Nat} (fuel : Nat)
    (hp : w.Perm (a :: b :: rest)) (hr : Ranked arena (a :: b :: rest)) :
    ∃ w', w'.Perm rest ∧
      heapLoop (fuel + 1) arena w = heapLoop fuel (arena ++ [mergedNode arena a b]) (w' ++ [arena.length]) := by
  have hpa : (w.erase a).Perm (b :: rest) := by simpa using hp.erase a
  have hpb : ((w.erase a).erase b).Perm rest := by simpa using hpa.erase b
  have hrb : Ranked arena (b :: rest) := (List.pairwise_cons.mp hr).2
  refine ⟨_, hpb, ?_⟩
  match w with
  | [] => exact absurd hp.length_eq (by simp)
  | [_] => exact absurd hp.length_eq (by simp)
  | x :: y :: w =>
    simp only [heapLoop, leastOf_of_perm_ranked hp hr]
    match he : (x :: y :: w).erase a with
    | [] => exact absurd (he ▸ hpa).length_eq (by simp)
    | z :: w' => simp only [leastOf_of_perm_ranked (he ▸ hpa) hrb, mergedNode]

/-! ### The two loops (R142) -/

/-- R142's induction: from working sets of the same nodes, the sorting loop's with its ties in order, both loops build the
same arena and keep the same nodes. -/
theorem heapLoop_eq_mergeLoop (fuel : Nat) {arena : List Node} {w v : List Nat} (hp : w.Perm v) (hf : fuel < v.length)
    (hv : ∀ i ∈ v, i < arena.length) (ht : TiesInOrder arena v) :
    (heapLoop fuel arena w).1 = (mergeLoop fuel arena v).1 ∧
      (heapLoop fuel arena w).2.Perm (mergeLoop fuel arena v).2 := by
  induction fuel generalizing arena w v with
  | zero => exact ⟨rfl, hp⟩
  | succ fuel ih =>
    have hsort := sortWork_perm arena v
    have hr := ranked_sortWork ht
    match hs : sortWork arena v with
    | [] => have := hsort.length_eq; simp [hs] at this; omega
    | [a] => have := hsort.length_eq; simp [hs] at this; omega
    | a :: b :: rest =>
      rw [hs] at hsort hr
      have hlen := hsort.length_eq
      simp only [List.length_cons] at hlen
      have hrest : ∀ i ∈ rest, i < arena.length := fun i hi => hv i (hsort.mem_iff.mp (by simp [hi]))
      have htrest : TiesInOrder arena rest := Ranked.tiesInOrder (hr.sublist (by simp))
      obtain ⟨w', hw', hheap⟩ := heapLoop_succ_of_ranked fuel (hp.trans hsort.symm) hr
      rw [hheap, mergeLoop_succ_of_sorted fuel hs]
      refine ih (hw'.append_right _) ?_ (fun i hi => ?_) (htrest.append_new _ hrest)
      · simp; omega
      · rw [List.length_append, List.length_singleton]
        rcases List.mem_append.mp hi with hi | hi
        · exact Nat.lt_succ_of_lt (hrest i hi)
        · rw [List.mem_singleton.mp hi]
          exact Nat.lt_succ_self _

/-- Settles O12: the loops end with the same arena and the same single node (`heapLoop_eq_mergeLoop`). -/
theorem stableSortBuilderEqualsTheHeapBuilder : Obligations.StableSortBuilderEqualsTheHeapBuilder := by
  intro ft
  by_cases hne : ft = []
  · rw [hne]
    rfl
  · have hpos := List.length_pos_iff.mpr hne
    have hf : ft.length - 1 < (List.range ft.length).length := by rw [List.length_range]; omega
    obtain ⟨harena, hp⟩ := heapLoop_eq_mergeLoop (ft.length - 1) (.refl (List.range ft.length)) hf
      (arena := leavesOf ft) (by simp) (List.pairwise_lt_range.imp fun hlt _ => hlt.le)
    have hone := (mergeLoop_length (ft.length - 1) (leavesOf ft) _ hf).2
    rcases hmerge : mergeLoop (ft.length - 1) (leavesOf ft) (List.range ft.length) with ⟨arena, w⟩
    simp only [hmerge, List.length_range] at harena hp hone
    obtain ⟨r, rfl⟩ := List.length_eq_one_iff.mp (show w.length = 1 by omega)
    have hheap : heapLoop (ft.length - 1) (leavesOf ft) (List.range ft.length) = (arena, [r]) :=
      Prod.ext harena (List.perm_singleton.mp hp)
    simp only [heapBuildTree, buildTree, hheap, hmerge]

end Sys2Proof.Machine
end

section
/-! PROOFS. The shape of a valid tree (41_tree_builder.md rule R144): what the builder keeps of who owns which node, and the
length of a path in a code tree. -/

namespace Sys2Proof.Machine

/-! ### Children -/

/-- Node `p.1` is internal, and node `i` is its left child (`p.2 = false`) or its right one (`p.2 = true`). -/
def IsChild (arena : List Node) (p : Nat × Bool) (i : Nat) : Prop :=
  ∃ f l r, arena[p.1]? = some (.internal f l r) ∧ (if p.2 then r else l).toNat = i

theorem IsChild.parent_lt_length {arena : List Node} {p : Nat × Bool} {i : Nat} (h : IsChild arena p i) :
    p.1 < arena.length := by
  obtain ⟨f, l, r, hp, -⟩ := h
  exact (List.getElem?_eq_some_iff.mp hp).1

/-- The merged node owns its two children, and no other node's children change. -/
theorem isChild_append_mergedNode {arena : List Node} {a b : Nat} (ha : a < 512) (hb : b < 512) (p : Nat × Bool)
    (i : Nat) : IsChild (arena ++ [mergedNode arena a b]) p i ↔
      IsChild arena p i ∨ p = (arena.length, false) ∧ a = i ∨ p = (arena.length, true) ∧ b = i := by
  obtain ⟨k, side⟩ := p
  rcases Nat.lt_trichotomy k arena.length with hk | rfl | hk
  · simp [IsChild, List.getElem?_append_left hk, hk.ne]
  · cases side <;>
      simp [IsChild, mergedNode, Nat.mod_eq_of_lt ha, Nat.mod_eq_of_lt hb]
  · have hnew : ¬ k < (arena ++ [mergedNode arena a b]).length := by simp; omega
    simp [IsChild, List.getElem?_eq_none (Nat.le_of_not_lt hnew), List.getElem?_eq_none hk.le, hk.ne']

/-! ### The builder keeps every node owned once -/

/-- What the builder keeps of the children (R144): they stand below their parents, the working nodes are those no node owns,
and every other node has one owner, on one side. -/
structure ChildrenOwned (arena : List Node) (w : List Nat) : Prop where
  nodup : w.Nodup
  child_lt : ∀ p i, IsChild arena p i → i < p.1
  unowned : ∀ i ∈ w, ∀ p, ¬ IsChild arena p i
  owned : ∀ i < arena.length, i ∉ w → ∃! p, IsChild arena p i

theorem childrenOwned_builderInvariant : BuilderInvariant ChildrenOwned where
  perm arena w w' hp h :=
    ⟨hp.nodup_iff.mp h.nodup, h.child_lt, fun i hi => h.unowned i (hp.mem_iff.mpr hi),
      fun i hi hw => h.owned i hi (mt hp.mem_iff.mp hw)⟩
  merge arena a b rest hlen hlt h := by
    have ha := hlt a (by simp)
    have hb := hlt b (by simp)
    have hrest : ∀ i ∈ rest, i < arena.length := fun i hi => hlt i (by simp [hi])
    have hchild := isChild_append_mergedNode (arena := arena) (show a < 512 by omega) (show b < 512 by omega)
    have hna := h.unowned a (by simp)
    have hnb := h.unowned b (by simp)
    obtain ⟨ha', hnodup⟩ := List.nodup_cons.mp h.nodup
    obtain ⟨hbrest, hnodup⟩ := List.nodup_cons.mp hnodup
    obtain ⟨hab, harest⟩ := not_or.mp (mt List.mem_cons.mpr ha')
    refine ⟨List.nodup_cons.mpr ⟨fun hi => (hrest _ hi).false, hnodup⟩, fun p i hp => ?_, fun i hi p hp => ?_,
      fun i hi hw => ?_⟩
    · rcases (hchild p i).mp hp with hp | ⟨rfl, rfl⟩ | ⟨rfl, rfl⟩
      · exact h.child_lt p i hp
      · exact ha
      · exact hb
    · rcases List.mem_cons.mp hi with rfl | hi
      · rcases (hchild p _).mp hp with hp | ⟨-, heq⟩ | ⟨-, heq⟩
        · exact (hp.parent_lt_length.trans (h.child_lt p _ hp)).false
        · exact ha.ne heq
        · exact hb.ne heq
      · rcases (hchild p i).mp hp with hp | ⟨-, rfl⟩ | ⟨-, rfl⟩
        · exact h.unowned i (by simp [hi]) p hp
        · exact harest hi
        · exact hbrest hi
    · simp only [List.length_append, List.length_singleton, List.mem_cons, not_or] at hi hw
      simp only [hchild]
      by_cases hia : a = i
      · subst hia
        exact ⟨(arena.length, false), by simp, by simp [hna, Ne.symm hab]⟩
      by_cases hib : b = i
      · subst hib
        exact ⟨(arena.length, true), by simp, by simp [hnb, hab]⟩
      simpa [hia, hib] using h.owned i (by omega) (by simp [hw, Ne.symm hia, Ne.symm hib])

/-- The builder starts with leaves, which own nothing. -/
theorem childrenOwned_leaves (ft : FreqTable) : ChildrenOwned (leavesOf ft) (List.range ft.length) := by
  have hnone : ∀ p i, ¬ IsChild (leavesOf ft) p i := by
    rintro p i ⟨f, l, r, hp, -⟩
    have := List.mem_of_getElem? hp
    simp [leavesOf] at this
  exact ⟨List.nodup_range, fun p i h => absurd h (hnone p i), fun i _ p => hnone p i,
    fun i hi hw => absurd (by simpa using hi) hw⟩

/-- The only node that no node owns is the arena's last, since a parent stands above its children (R144). -/
theorem ChildrenOwned.root_eq {arena : List Node} {r : Nat} (h : ChildrenOwned arena [r]) (hr : r < arena.length) :
    r = arena.length - 1 := by
  by_contra hne
  obtain ⟨p, hp, -⟩ := h.owned (arena.length - 1) (by omega) (by simp; omega)
  have := h.child_lt p _ hp
  have := hp.parent_lt_length
  omega

/-! ### Paths -/

/-- A path in a stored code tree is no longer than the tree is deep. -/
theorem length_le_depth_of_follow {t : Tables} {tree : CodeTree} {i j : BitVec 9} {path : Bits}
    (hs : tree.storedAt t.arena i) (h : follow t.nodes i path = some j) : path.length ≤ tree.depth := by
  induction path generalizing tree i with
  | nil => exact Nat.zero_le _
  | cons b path ih =>
    cases tree with
    | leaf sym =>
      obtain ⟨f, hn⟩ := hs
      simp [follow, nodeAt_of_arena hn] at h
    | fork l r =>
      obtain ⟨f, x, y, hn, hl, hr⟩ := hs
      simp only [follow, nodeAt_of_arena hn] at h
      simp only [List.length_cons, CodeTree.depth]
      cases b with
      | false => have := ih hl h; omega
      | true => have := ih hr h; omega

/-! ### The valid tree -/

/-- What the builder keeps holds of the stored tree of a nonempty table, with the root as the only working node. -/
theorem BuilderInvariant.storedTree {P : List Node → List Nat → Prop} (hP : BuilderInvariant P) {t : Tables}
    (ht : t.treeOk) (hne : t.ft ≠ []) (h₀ : P (leavesOf t.ft) (List.range t.ft.length)) :
    t.root.toNat < t.arena.length ∧ P t.arena [t.root.toNat] := by
  obtain ⟨harena, hroot⟩ := t.treeOk_iff.mp ht
  obtain ⟨r, hlt, hr, h⟩ := hP.buildTree hne t.ft_length_le h₀
  have hmax := buildTree_length_le t
  rw [harena, hroot, hr, toNat_ofNat_of_lt (by omega)]
  exact ⟨hlt, h⟩

section Nonempty

variable {t : Tables} (ht : t.treeOk) (hne : t.ft ≠ [])

include ht hne

theorem Tables.childrenOwned : t.root.toNat < t.arena.length ∧ ChildrenOwned t.arena [t.root.toNat] :=
  childrenOwned_builderInvariant.storedTree ht hne (childrenOwned_leaves t.ft)

theorem Tables.root_freq (hft : t.ftOk) : (nodeAt t.nodes t.root).freq.toNat = (t.ft.map Prod.snd).sum := by
  obtain ⟨-, hcount⟩ := hft
  have hle := sum_counts_le t.ft_length_le fun e he => (hcount e he).2
  have hleaves := frequenciesAddUp_leaves fun e he => Nat.lt_of_le_of_lt (hcount e he).2 (by decide : 65535 < 2 ^ 32)
  obtain ⟨hlt, hsum, -⟩ :=
    (frequenciesAddUp_builderInvariant (Nat.lt_of_le_of_lt hle (by decide))).storedTree ht hne hleaves
  have hnode := List.getElem?_eq_getElem hlt
  rw [nodeAt_of_arena hnode, ← hsum]
  simp [freqOf, hnode]

theorem Tables.path_length_lt {path : Bits} {j : BitVec 9} (h : follow t.nodes t.root path = some j) :
    path.length < t.ftN.val := by
  obtain ⟨harena, hroot⟩ := t.treeOk_iff.mp ht
  obtain ⟨tree, hs, hl⟩ := buildTree_storedAt hne t.ft_length_le
  rw [← harena, ← hroot] at hs
  calc path.length
    _ ≤ tree.depth := length_le_depth_of_follow hs h
    _ < tree.leaves.length := tree.depth_lt_leaves
    _ = t.ftN.val := by rw [hl.length_eq, List.length_map, t.ft_length]

end Nonempty

/-- R140: an empty table's tree has no nodes and no root. -/
theorem Tables.tree_of_empty {t : Tables} (ht : t.treeOk) (he : t.ft = []) : t.arena = [] ∧ t.root = noneIndex := by
  obtain ⟨harena, hroot⟩ := t.treeOk_iff.mp ht
  rw [he] at harena hroot
  exact ⟨harena, hroot⟩

/-- Settles O13: the children by `ChildrenOwned` with the root alone unowned, the frequency and the depth by the stored tree;
an empty table's tree has no nodes. -/
theorem builtTreeIsFullAndShallow : Obligations.BuiltTreeIsFullAndShallow := by
  intro s hs hv
  obtain ⟨-, ⟨-, htf, -, -⟩, hft, htree, -⟩ := hs
  have hft := hft (htf hv)
  have ht := htree hv
  have hmax := s.tables.ftN.isLt
  have hlen := s.tables.ft_length
  rw [← s.tables.arena_length]
  by_cases hne : s.tables.ft = []
  · obtain ⟨harena, hroot⟩ := s.tables.tree_of_empty ht hne
    rw [hne, List.length_nil] at hlen
    rw [harena]
    exact ⟨nofun, nofun, fun hpos => by omega, fun hr => absurd hroot hr, by omega⟩
  · obtain ⟨hlt, hown⟩ := s.tables.childrenOwned ht hne
    refine ⟨fun i f l r hi => ⟨?_, ?_⟩, fun i hi hr => ?_, fun _ => ⟨hown.root_eq hlt, s.tables.root_freq ht hne hft⟩,
      fun _ path j h => ?_, by omega⟩
    · exact hown.child_lt (i, false) _ ⟨f, l, r, hi, rfl⟩
    · exact hown.child_lt (i, true) _ ⟨f, l, r, hi, rfl⟩
    · exact hown.owned i hi (by simpa using hr)
    · have := s.tables.path_length_lt ht hne h
      omega

end Sys2Proof.Machine
end

section
/-! PROOFS. The codes as paths, and the decoder that follows them (42_code_table.md rules R150, R151, R153, 45_decoder.md rules
R180, R183): GEN's codes lead from the root to their symbols' leaves, and the walk over a code ends at its leaf. -/

namespace Sys2Proof.Machine

/-! ### GEN's effects (R151) -/

/-- With TREE_V set GEN passes its `require` (R151). -/
theorem stageGen_of_treeV {s : State} (hv : s.valid.treeV = true) : stageGen s = genBody s :=
  require_ok ((Valid.missing_tree _).mpr hv)

/-- Settles O15: the body's updates are the stated ones. -/
theorem genStoresTheCodes : Obligations.GenStoresTheCodes := by
  intro s hv
  rw [exec_eq, stageOf, stageGen_of_treeV hv]
  rfl

/-! ### Codes of a code tree -/

/-- The path to a tree stands before every code in it. -/
theorem CodeTree.mem_codes_append {t : CodeTree} {p q : Bits} {m : Byte} {c : Bits} :
    (m, p ++ c) ∈ t.codes (p ++ q) ↔ (m, c) ∈ t.codes q := by
  induction t generalizing q with
  | leaf sym => simp [codes]
  | fork l r hl hr => simp only [codes, List.append_assoc, List.mem_append, hl, hr]

/-- A fork's codes take the edge to a side first. -/
theorem CodeTree.mem_codes_fork_cons {l r : CodeTree} {m : Byte} {b : Bool} {c : Bits} :
    (m, b :: c) ∈ (fork l r).codes [] ↔ (m, c) ∈ (if b then r else l).codes [] := by
  have hside : ∀ t : CodeTree, (m, b :: c) ∈ t.codes [b] ↔ (m, c) ∈ t.codes [] := fun t =>
    mem_codes_append (p := [b]) (q := [])
  have hother : ∀ t : CodeTree, (m, b :: c) ∉ t.codes [!b] := fun t h => by
    simpa using prefix_of_mem_codes h
  rw [codes, List.mem_append]
  cases b with
  | false => exact (or_iff_left (hother r)).trans (hside l)
  | true => exact (or_iff_right (hother l)).trans (hside r)

/-- A fork has no symbol of its own. -/
theorem CodeTree.not_mem_codes_fork_nil {l r : CodeTree} {m : Byte} : (m, []) ∉ (fork l r).codes [] := fun h => by
  rcases List.mem_append.mp h with h | h <;> simpa using prefix_of_mem_codes h

/-- The path leads from the node to a leaf of the symbol (R14, R150). -/
def LeadsTo (nodes : Vector Node 511) (i : BitVec 9) (path : Bits) (m : Byte) : Prop :=
  ∃ j f, follow nodes i path = some j ∧ nodeAt nodes j = .leaf m f

/-- R150: the codes of a stored tree are the paths to its leaves. -/
theorem CodeTree.mem_codes_iff_leadsTo {t : Tables} {tree : CodeTree} {i : BitVec 9} (h : tree.storedAt t.arena i)
    (m : Byte) (c : Bits) : (m, c) ∈ tree.codes [] ↔ LeadsTo t.nodes i c m := by
  induction tree generalizing i c with
  | leaf sym =>
    obtain ⟨f, hn⟩ := h
    cases c with
    | nil => simp [codes, LeadsTo, follow, nodeAt_of_arena hn, eq_comm]
    | cons b c => simp [codes, LeadsTo, follow, nodeAt_of_arena hn]
  | fork l r hl hr =>
    obtain ⟨f, x, y, hn, hx, hy⟩ := h
    cases c with
    | nil => simp [not_mem_codes_fork_nil, LeadsTo, follow, nodeAt_of_arena hn]
    | cons b c =>
      rw [mem_codes_fork_cons]
      simp only [LeadsTo, follow, nodeAt_of_arena hn]
      cases b with
      | false => exact hl hx c
      | true => exact hr hy c

/-! ### The codes of a valid tree -/

section Nonempty

variable {t : Tables} (ht : t.treeOk) (hne : t.ft ≠ [])

include ht hne

/-- R28, R140: the arena of a nonempty table stores a code tree over its symbols, and GEN writes that tree's codes. -/
theorem Tables.exists_storedAt :
    ∃ tree : CodeTree, tree.storedAt t.arena t.root ∧ tree.leaves.Perm (t.ft.map Prod.fst) ∧
      generateCodes t.nodes t.root = ctSetAll (Vector.replicate 256 none) (tree.codes []) := by
  obtain ⟨harena, hroot⟩ := t.treeOk_iff.mp ht
  obtain ⟨tree, hs, hl⟩ := buildTree_storedAt hne t.ft_length_le
  exact ⟨tree, by rwa [harena, hroot], hl, generateCodes_of_treeOk ht hs hl⟩

theorem Tables.root_ne_noneIndex : t.root ≠ noneIndex := fun hr => by
  obtain ⟨hlt, -⟩ := t.childrenOwned ht hne
  have hmax := t.arena_length_le
  rw [hr] at hlt
  have : noneIndex.toNat = 511 := rfl
  omega

end Nonempty

/-- R150: a symbol's code is the path from the root of the tree to its leaf. -/
theorem ctAt_generateCodes_iff {t : Tables} (hft : t.ftOk) (ht : t.treeOk) (m : Byte) (c : Bits) :
    ctAt (generateCodes t.nodes t.root) m = some c ↔ t.root ≠ noneIndex ∧ LeadsTo t.nodes t.root c m := by
  by_cases hne : t.ft = []
  · rw [generateCodes_of_empty ht hne, ctAt_replicate_none]
    exact iff_of_false nofun fun h => h.1 (t.tree_of_empty ht hne).2
  · obtain ⟨tree, hs, hl, hgen⟩ := t.exists_storedAt ht hne
    have hnodup : ((tree.codes []).map Prod.fst).Nodup := by
      rw [CodeTree.codes_map_fst]
      exact hl.nodup_iff.mpr hft.1
    rw [hgen, ctAt_ctSetAll_iff hnodup, CodeTree.mem_codes_iff_leadsTo hs]
    exact (and_iff_right (t.root_ne_noneIndex ht hne)).symm

/-- Settles O16: GEN stores the codes, which are the paths (`ctAt_generateCodes_iff`). -/
theorem codesAreTheRootToLeafPaths : Obligations.CodesAreTheRootToLeafPaths := by
  intro s hs hv
  obtain ⟨-, ⟨-, htf, -, -⟩, hft, htree, -⟩ := hs
  exact ⟨_, genStoresTheCodes s hv, ctAt_generateCodes_iff (hft (htf hv)) (htree hv)⟩

/-! ### The walk over codes (R180) -/

section Walk

variable {cap : Nat} {nodes : Vector Node 511} {root : BitVec 9}

/-- At the root the walk begins a new code, so where the last one began has no effect. -/
theorem walk_at_root (bits : Bits) (j start : Nat) (out : List Byte) :
    walk cap nodes root bits j root start out = walk cap nodes root bits j root 0 out := by
  cases bits <;> simp [walk]

/-- R153, R180: below an internal node, the walk along a path to a leaf emits the leaf's symbol and is back at the root. -/
theorem walk_of_leadsTo {path : Bits} {m : Byte} {i l r : BitVec 9} {f : BitVec 32}
    (hi : nodeAt nodes i = .internal f l r) (hp : LeadsTo nodes i path m) (rest : Bits) (j start : Nat)
    {out : List Byte} (hcap : out.length < cap) :
    walk cap nodes root (path ++ rest) j i start out =
      walk cap nodes root rest (j + path.length) root 0 (out ++ [m]) := by
  obtain ⟨k, g, hk, hleaf⟩ := hp
  induction path generalizing i l r f j start with
  | nil =>
    cases hk
    rw [hi] at hleaf
    cases hleaf
  | cons b path ih =>
    simp only [follow, hi] at hk
    simp only [List.cons_append, walk, hi]
    cases hn : nodeAt nodes (if b then r else l) with
    | leaf sym g' =>
      cases path with
      | nil =>
        cases hk
        rw [hleaf] at hn
        cases hn
        simp only [if_neg hcap.ne, walk_at_root]
        rfl
      | cons b' path => simp [follow, hn] at hk
    | internal f' l' r' =>
      simp only [ih hn _ _ hk, List.length_cons, Nat.add_assoc, Nat.add_comm 1]

theorem encodeBits_cons (ct : Vector (Option Bits) 256) (m : Byte) (msg : List Byte) :
    encodeBits ct (m :: msg) = (ctAt ct m).getD [] ++ encodeBits ct msg := List.flatMap_cons

/-- R153, R180: the walk over concatenated codes emits their symbols. -/
theorem walk_encodeBits {ct : Vector (Option Bits) 256} {l r : BitVec 9} {f : BitVec 32}
    (hroot : nodeAt nodes root = .internal f l r) (rest : Bits) {msg : List Byte}
    (hcodes : ∀ m ∈ msg, LeadsTo nodes root ((ctAt ct m).getD []) m) (j : Nat) {out : List Byte}
    (hcap : out.length + msg.length ≤ cap) :
    walk cap nodes root (encodeBits ct msg ++ rest) j root 0 out =
      walk cap nodes root rest (j + (encodeBits ct msg).length) root 0 (out ++ msg) := by
  induction msg generalizing j out with
  | nil => simp [encodeBits]
  | cons m msg ih =>
    rw [List.length_cons] at hcap
    rw [encodeBits_cons, List.append_assoc, walk_of_leadsTo hroot (hcodes m (by simp)) _ _ _ (by omega),
      ih (fun x hx => hcodes x (by simp [hx])) _ (by simp; omega)]
    simp [Nat.add_assoc]

end Walk

/-! ### DECODE (R183) -/

/-- With TREE_V and HDR_V set DECODE passes its `require` (R183). -/
theorem stageDecode_of_treeV_hdrV {s : State} (ht : s.valid.treeV = true) (hh : s.valid.hdrV = true) :
    stageDecode s = decodeBody s :=
  require_ok ((Valid.missing_tree_hdr _).mpr ⟨ht, hh⟩)

/-- A single symbol's tree is a leaf with its count (R144). -/
theorem Tables.nodeAt_root_of_single {t : Tables} (hft : t.ftOk) (ht : t.treeOk) {m : Byte} {n : Nat}
    (hs : t.ft = [(m, n)]) : ∃ f, nodeAt t.nodes t.root = .leaf m f ∧ f.toNat = n := by
  have hne : t.ft ≠ [] := by simp [hs]
  obtain ⟨tree, hstored, hl, -⟩ := t.exists_storedAt ht hne
  have hfreq := t.root_freq ht hne hft
  rw [hs] at hl hfreq
  have hl : tree.leaves = [m] := List.perm_singleton.mp hl
  cases tree with
  | leaf sym =>
    obtain ⟨f, hn⟩ := hstored
    obtain rfl : sym = m := List.singleton_inj.mp hl
    have hn := nodeAt_of_arena hn
    rw [hn] at hfreq
    exact ⟨f, hn, by simpa [Node.freq] using hfreq⟩
  | fork l r =>
    have hdepth := (CodeTree.fork l r).depth_lt_leaves
    rw [hl] at hdepth
    simp [CodeTree.depth] at hdepth

/-- With two symbols or more the root is an internal node (R144). -/
theorem Tables.nodeAt_root_of_two {t : Tables} (ht : t.treeOk) (h2 : 2 ≤ t.ft.length) :
    ∃ f l r, nodeAt t.nodes t.root = .internal f l r := by
  obtain ⟨tree, hstored, hl, -⟩ := t.exists_storedAt ht fun h => by simp [h] at h2
  cases tree with
  | leaf sym =>
    have hlen : 1 = t.ft.length := hl.length_eq.trans (List.length_map ..)
    omega
  | fork l r =>
    obtain ⟨f, x, y, hn, -⟩ := hstored
    exact ⟨f, x, y, nodeAt_of_arena hn⟩

/-- R153, R183: a payload that encodes symbols which fit decodes to them. -/
theorem decodeMessage_of_decodesTo {cap : Nat} {t : Tables} {bits : Bits} {out : List Byte} (hft : t.ftOk)
    (ht : t.treeOk) (hcap : out.length ≤ cap)
    (hd : decodesTo t.ft (generateCodes t.nodes t.root) bits out) : decodeMessage cap t bits = .ok out := by
  match hs : t.ft with
  | [] =>
    rw [hs] at hd
    obtain ⟨rfl, rfl⟩ := hd
    simp [decodeMessage, (t.tree_of_empty ht hs).2]
  | [(m, n)] =>
    rw [hs] at hd
    obtain ⟨rfl, rfl⟩ := hd
    obtain ⟨f, hn, rfl⟩ := t.nodeAt_root_of_single hft ht hs
    rw [List.length_replicate] at hcap
    simp [decodeMessage, t.root_ne_noneIndex ht (by simp [hs]), hn, Nat.not_lt.mpr hcap]
  | _ :: _ :: _ =>
    rw [hs] at hd
    obtain ⟨rfl, hcodes⟩ := hd
    obtain ⟨f, l, r, hn⟩ := t.nodeAt_root_of_two ht (by simp [hs])
    have hpaths : ∀ m ∈ out, LeadsTo t.nodes t.root ((ctAt (generateCodes t.nodes t.root) m).getD []) m := fun m hm => by
      obtain ⟨c, hc⟩ := Option.isSome_iff_exists.mp (hcodes m hm)
      rw [hc]
      exact ((ctAt_generateCodes_iff hft ht m c).mp hc).2
    have hwalk := walk_encodeBits hn [] hpaths 0 (out := []) (by simpa using hcap)
    rw [List.append_nil] at hwalk
    simp [decodeMessage, t.root_ne_noneIndex ht (by simp [hs]), hn, hwalk, walk]

/-- Settles O28: the payload decodes to the symbols, and the stored bytes read back. -/
theorem decodeRecoversTheSymbols : Obligations.DecodeRecoversTheSymbols := by
  intro s out hs htv hhv hcap hd
  obtain ⟨-, ⟨-, htf, -, -⟩, hft, htree, -⟩ := hs
  have hmsg := decodeMessage_of_decodesTo (hft (htf htv)) (htree htv) hcap hd
  refine ⟨?_, Buffer.readList_writeList (by omega)⟩
  rw [exec_eq, stageOf, stageDecode_of_treeV_hdrV htv hhv, decodeBody, hmsg]
  rfl

end Sys2Proof.Machine
end

section
/-! PROOFS. ENCODE (43_encoder.md rules R160–R164): the padding of a packed bit string, pass 1 cut at the offending byte, and
what a success says of the length, the padding and the payload's place. -/

namespace Sys2Proof.Machine

/-! ### Packing (R161, R162) -/

/-- R161: grouping the padded string into bytes loses no bit. -/
theorem unpack_pack_zero (bits : Bits) :
    unpack (pack bits).1 0 = bits ++ List.replicate (padOf bits.length) false := by
  have hlen : (bits ++ List.replicate (padOf bits.length) false).length = 8 * ceil8 bits.length := by
    rw [List.length_append, List.length_replicate, padOf_ceil8]
  rw [unpack, pack, flatMap_bytesOfBits _ _ hlen]
  exact List.take_of_length_le (by rw [hlen, bytesOfBits_length _ _ hlen, Nat.sub_zero])

/-- Settles O22: the pad is below 8, and the bytes hold the padded string. -/
theorem packPadsWithZeroBits : Obligations.PackPadsWithZeroBits := fun bits =>
  ⟨rfl, Nat.le_of_lt_succ (padOf_lt _), pack_length bits, unpack_pack_zero bits⟩

/-! ### Pass 1 and the offending byte (R163) -/

theorem sizeLoop_append (sym8 : Bool) (ct : Vector (Option Bits) 256) (l l' : List Byte) (i n : Nat) :
    sizeLoop sym8 ct (l ++ l') i n = (sizeLoop sym8 ct l i n).bind (sizeLoop sym8 ct l' (i + l.length)) := by
  induction l generalizing i n with
  | nil => rfl
  | cons m l ih =>
    simp only [List.cons_append, sizeLoop]
    split
    · rfl
    split
    · rfl
    · rw [ih, List.length_cons, Nat.add_right_comm, Nat.add_assoc]

theorem sizeLoop_zero_of_codes {sym8 : Bool} {ct : Vector (Option Bits) 256} {l : List Byte}
    (h : ∀ m ∈ l, tooWide sym8 m = false ∧ (ctAt ct m).isSome = true) :
    sizeLoop sym8 ct l 0 0 = .ok (encodeBits ct l).length := by
  rw [sizeLoop_of_codes h, Nat.zero_add]

section Offending

variable {sym8 : Bool} {ct : Vector (Option Bits) 256} {pre post : List Byte} {m : Byte}
  (hpre : ∀ x ∈ pre, tooWide sym8 x = false ∧ (ctAt ct x).isSome = true)

include hpre

/-- Bytes that pass both checks are sized, and pass 1 goes on behind them. -/
theorem sizeLoop_of_checked :
    sizeLoop sym8 ct (pre ++ m :: post) 0 0 = sizeLoop sym8 ct (m :: post) pre.length (encodeBits ct pre).length := by
  rw [sizeLoop_append, sizeLoop_zero_of_codes hpre, Nat.zero_add]
  rfl

theorem sizeLoop_tooWide (hm : tooWide sym8 m = true) :
    sizeLoop sym8 ct (pre ++ m :: post) 0 0 = .error { code := .symbolWidth, info := symbolInfo m pre.length } := by
  rw [sizeLoop_of_checked hpre, sizeLoop, if_pos hm]

theorem sizeLoop_unknownSymbol (hm : tooWide sym8 m = false) (hc : ctAt ct m = none) :
    sizeLoop sym8 ct (pre ++ m :: post) 0 0 = .error { code := .unknownSymbol, info := symbolInfo m pre.length } := by
  rw [sizeLoop_of_checked hpre, sizeLoop, if_neg (Bool.eq_false_iff.mp hm), hc]

end Offending

/-! ### The command's answers (R163, R206) -/

theorem exec_encode_of_ctV {s : State} (hv : s.valid.ctV = true) : exec .encode s = .next (encodeBody s).complete := by
  rw [exec_eq, stageOf, stageEncode, require_ok ((Valid.missing_ct _).mpr hv)]

theorem complete_encodeFails (s : State) (e : CmdError) : (encodeFails s e).complete = s.encodeFailure e.code e.info := rfl

theorem exec_encode_of_error {s : State} {e : CmdError} (hv : s.valid.ctV = true) (hl : s.msgLen.toNat ≤ s.caps.msgCap)
    (he : sizeLoop s.sym8 s.tables.ct s.message 0 0 = .error e) :
    exec .encode s = .next (s.encodeFailure e.code e.info) := by
  rw [exec_encode_of_ctV hv, encodeBody, if_neg (Nat.not_lt.mpr hl), he, complete_encodeFails]

/-- Settles O20: each check fails behind the ones before it, and every failure is `encodeFails`. -/
theorem encodeFailureOnlyClearsEncV : Obligations.EncodeFailureOnlyClearsEncV := by
  refine ⟨fun s hv hl => ?_, fun s pre post m hv hl hmsg hpre => ⟨fun hm => ?_, fun hm hc => ?_⟩,
    fun s hv hl hm hcap => ?_⟩
  · rw [exec_encode_of_ctV hv, encodeBody, if_pos hl, complete_encodeFails]
  · exact exec_encode_of_error hv hl (hmsg ▸ sizeLoop_tooWide hpre hm)
  · exact exec_encode_of_error hv hl (hmsg ▸ sizeLoop_unknownSymbol hpre hm hc)
  · change s.caps.contCap < headerLen s.tables.ftN.val + _ at hcap
    rw [exec_encode_of_ctV hv, encodeBody, if_neg (Nat.not_lt.mpr hl), sizeLoop_zero_of_codes hm]
    simp only [if_pos hcap]
    rfl

/-- The payload written behind the header space reads back (R163). -/
theorem Buffer.readList_writeList_pack {cap off : Nat} (b : Buffer) {bits : Bits} (h : off + ceil8 bits.length ≤ cap) :
    (b.writeList cap off (pack bits).1).readList cap off (ceil8 bits.length) = (pack bits).1 := by
  rw [← pack_length] at h ⊢
  exact Buffer.readList_writeList h

/-- Settles O18: pass 1 passes every byte, and pass 2 stores the payload where it fits. -/
theorem encodePacksTheMessage : Obligations.EncodePacksTheMessage := by
  intro s hv hl hm hfit
  refine ⟨?_, Buffer.readList_writeList_pack _ hfit⟩
  rw [exec_eq, stageOf, stageEncode_of_codes hv hl hm hfit]
  rfl

/-! ### Lengths and padding after a success (R164) -/

theorem length_encodeBits (ct : Vector (Option Bits) 256) (msg : List Byte) :
    (encodeBits ct msg).length = (msg.map fun m => ((ctAt ct m).getD []).length).sum := List.length_flatMap

/-- R43: no code has more than 255 bits. -/
theorem State.length_code_le {s : State} (hs : s.tablesOk) (hv : s.valid.ctV = true) (m : Byte) :
    ((ctAt s.tables.ct m).getD []).length ≤ 255 := by
  obtain ⟨-, -, -, hlen, -⟩ := codesArePrefixFreeAndComplete s hs hv
  cases hc : ctAt s.tables.ct m with
  | none => simp
  | some c => exact hlen m c hc

/-- R164: BITLEN_R ≤ MSG_CAP · 255. -/
theorem State.length_encodeBits_le {s : State} (hs : s.tablesOk) (hv : s.valid.ctV = true)
    (hl : s.msgLen.toNat ≤ s.caps.msgCap) : (encodeBits s.tables.ct s.message).length ≤ s.caps.msgCap * 255 := by
  calc (encodeBits s.tables.ct s.message).length
      = (s.message.map fun m => ((ctAt s.tables.ct m).getD []).length).sum := length_encodeBits ..
    _ ≤ s.message.length * 255 := by
      simpa using List.sum_le_card_nsmul (s.message.map fun m => ((ctAt s.tables.ct m).getD []).length) 255
        (List.forall_mem_map.mpr fun m _ => State.length_code_le hs hv m)
    _ ≤ s.caps.msgCap * 255 := Nat.mul_le_mul_right 255 (s.message_length ▸ hl)

/-- ENC_V marks ENCODE's success: NOT_READY leaves it clear, since ENC_V implies CT_V (R29), and any other failure clears it
(R163). -/
theorem stageEncode_of_encV {s : State} (hs : s.tablesOk) (hv : (stageEncode s).state.valid.encV = true) :
    s.valid.ctV = true ∧ s.msgLen.toNat ≤ s.caps.msgCap ∧
      headerLen s.tables.ftN.val + ceil8 (encodeBits s.tables.ct s.message).length ≤ s.caps.contCap ∧
      stageEncode s = encodeWrite s (encodeBits s.tables.ct s.message).length := by
  rcases stageEncode_cases s with ⟨hct, h⟩ | ⟨hct, h⟩
  · rcases encodeBody_cases s with ⟨e, hb⟩ | ⟨hl, -, hfit, hb⟩
    · rw [h, hb] at hv
      exact nomatch hv
    · exact ⟨hct, hl, hfit, h.trans hb⟩
  · obtain ⟨-, ⟨-, -, hchain, -⟩, -⟩ := hs
    rw [h] at hv
    exact absurd (hchain hv) (Bool.eq_false_iff.mp hct)

/-- Settles O19: a success stored the payload, whose length fits BITLEN_R. -/
theorem encodedLengthAndPaddingAgree : Obligations.EncodedLengthAndPaddingAgree := by
  intro s t hs h hv
  rw [exec_eq] at h
  cases h
  rw [Stage.complete_valid, stageOf] at hv
  obtain ⟨hct, hl, hfit, hok⟩ := stageEncode_of_encV hs hv
  obtain ⟨-, -, -, -, -, henc, -⟩ := tablesOk_encode hs
  obtain ⟨hpad, -⟩ := henc hv
  have hbound := State.length_encodeBits_le hs hct hl
  have hcap := Caps.wf_msgCap hs.1
  have hbits : (stageEncode s).state.tables.bitLen.toNat = (encodeBits s.tables.ct s.message).length := by
    rw [hok]
    exact toNat_ofNat_of_lt (by omega)
  rw [hbits] at hpad
  simp only [stageOf, Stage.complete_tables, Stage.complete_contRead, hbits]
  refine ⟨length_encodeBits .., hpad, ?_, fun a ha => ?_, hbound, by omega⟩
  · rw [hok]
    exact Buffer.readList_writeList_pack _ hfit
  · exact contRead_stageEncode (by rwa [pack_length])

end Sys2Proof.Machine
end

section
/-! PROOFS. WRITE_HDR (44_container.md rules R170, R171) and READ_HDR's undoing of it (rule R173): what stands in CONT_BUF
after WRITE_HDR is an allowed header and a payload. -/

namespace Sys2Proof.Machine

/-! ### WRITE_HDR's effects -/

/-- With ENC_V set WRITE_HDR passes its `require` (R171). -/
theorem stageWriteHdr_of_encV {s : State} (hv : s.valid.encV = true) : stageWriteHdr s = writeHdrBody s :=
  require_ok ((Valid.missing_enc _).mpr hv)

/-- Settles O24: the body's updates are the stated ones, and the header written where it fits reads back. -/
theorem writeHdrPutsTheHeaderInFront : Obligations.WriteHdrPutsTheHeaderInFront := by
  intro s hv
  refine ⟨?_, fun hfit => ?_⟩
  · rw [exec_eq, stageOf, stageWriteHdr_of_encV hv]
    simp [writeHdrBody, State.succeed, Valid.afterWriteHdr, headerLen]
  · have hlen : (headerBytes s.tables.ft (s.tables.pad.setWidth 8)).length = 5 + 3 * s.tables.ftN.val := by
      rw [headerBytes_length, Tables.ft_length, headerLen]
    rw [← hlen] at hfit ⊢
    exact Buffer.readList_writeList (by omega)

/-- A word holds the number it reads as. -/
theorem eq_ofNat_of_toNat_eq {w n : Nat} {v : BitVec w} (h : v.toNat = n) : v = BitVec.ofNat w n := by
  rw [← h, BitVec.ofNat_toNat, BitVec.setWidth_eq]

/-! ### The round trip (R173) -/

/-- A consistent table whose symbols SYM8 allows has a header R108 allows. -/
theorem State.headerAllowed_of_encV {s : State} (hs : s.tablesOk) (hv : s.valid.encV = true)
    (hw : ∀ e ∈ s.tables.ft, tooWide s.sym8 e.1 = false) :
    headerAllowed s.sym8 s.tables.ft (s.tables.pad.setWidth 8) (ceil8 s.tables.bitLen.toNat) := by
  obtain ⟨-, ⟨hct, htree, henc, -⟩, hft, -, -, hencOk, -⟩ := hs
  obtain ⟨hnodup, hcounts⟩ := hft (htree (hct (henc hv)))
  obtain ⟨hpad, -⟩ := hencOk hv
  have hpad8 : (s.tables.pad.setWidth 8).toNat = s.tables.pad.toNat := BitVec.toNat_setWidth_of_le (by decide)
  refine ⟨s.tables.ft_length_le, hnodup, fun e he => ⟨hw e he, hcounts e he⟩, by omega, fun hp => ?_⟩
  have := padOf_ceil8 s.tables.bitLen.toNat
  exact BitVec.eq_of_toNat_eq (hpad8.trans (by omega : s.tables.pad.toNat = 0))

/-- R105: the container is its header and its payload. -/
theorem State.contLen_of_container {s : State} {ft : FreqTable} {pad : Byte} {payload : List Byte}
    (hc : s.container = headerBytes ft pad ++ payload) : s.contLen.toNat = headerLen ft.length + payload.length := by
  rw [← s.container_length, hc, List.length_append, headerBytes_length]

/-- R105: CONT_BUF with a table's header written in front holds that header and `p` bytes of payload. -/
theorem State.container_of_header {r : State} {b : Buffer} {ft : FreqTable} {pad : Byte} {p : Nat}
    (hbuf : r.contBuf = b.writeList r.caps.contCap 0 (headerBytes ft pad))
    (hlen : r.contLen.toNat = headerLen ft.length + p) (hfit : headerLen ft.length ≤ r.caps.contCap) :
    r.container = headerBytes ft pad ++ r.contBuf.readList r.caps.contCap (headerLen ft.length) p := by
  rw [← headerBytes_length ft pad] at hlen hfit ⊢
  rw [State.container, hlen, Buffer.readList_append, Nat.zero_add, hbuf, Buffer.readList_writeList (by omega)]

/-- After WRITE_HDR the container is the table's header and a payload of ceil8(BITLEN_R) bytes, within the capacity (R105,
R171). -/
theorem State.container_of_writeHdr {s r : State} (hs : s.tablesOk) (hv : s.valid.encV = true) (hcaps : r.caps = s.caps)
    (hbuf : r.contBuf = s.contBuf.writeList s.caps.contCap 0 (headerBytes s.tables.ft (s.tables.pad.setWidth 8)))
    (hlen : r.contLen = BitVec.ofNat 32 (headerLen s.tables.ftN.val + ceil8 s.tables.bitLen.toNat)) :
    r.contLen.toNat ≤ r.caps.contCap ∧ ∃ payload : List Byte, payload.length = ceil8 s.tables.bitLen.toNat ∧
      r.container = headerBytes s.tables.ft (s.tables.pad.setWidth 8) ++ payload := by
  obtain ⟨hk, -, -, -, -, hencOk, -⟩ := hs
  obtain ⟨-, hfit⟩ := hencOk hv
  have hcap := Caps.wf_contCap hk
  have hlen : r.contLen.toNat = headerLen s.tables.ftN.val + ceil8 s.tables.bitLen.toNat :=
    hlen ▸ toNat_ofNat_of_lt (by omega)
  rw [← hcaps] at hbuf hfit
  rw [← s.tables.ft_length] at hlen hfit
  exact ⟨by omega, _, Buffer.readList_length .., State.container_of_header hbuf hlen (by omega)⟩

/-- Settles O27: what WRITE_HDR leaves is an allowed header and a payload, which READ_HDR restores (O25) and of whose table
BUILD stores the one tree (O11). -/
theorem readHdrUndoesWriteHdr : Obligations.ReadHdrUndoesWriteHdr := by
  intro s hs hv hw
  obtain ⟨hexec, -⟩ := writeHdrPutsTheHeaderInFront s hv
  refine ⟨_, hexec, fun r hbuf hlen hsym hcaps => ?_⟩
  obtain ⟨hfit, payload, hp, hcont⟩ := State.container_of_writeHdr hs hv hcaps hbuf hlen
  have ha := State.headerAllowed_of_encV hs hv hw
  rw [← hp, ← (hsym : r.sym8 = s.sym8)] at ha
  obtain ⟨hk, ⟨hct, -, henc, -⟩, -, htreeOk, -, hencOk, -⟩ := hs
  obtain ⟨hpad, -⟩ := hencOk hv
  have hbits := padOf_ceil8 s.tables.bitLen.toNat
  have hpad8 : (s.tables.pad.setWidth 8).toNat = s.tables.pad.toNat := BitVec.toNat_setWidth_of_le (by decide)
  obtain ⟨u, hread, hu, hft, hftN, hpadU, hoff, hpay, hbitLen, -⟩ :=
    readHdrRestoresTheTable r s.tables.ft _ payload (hcaps ▸ hk) hfit hcont ha
  have hvalid := congrArg State.valid hu
  have herr := congrArg State.err hu
  obtain ⟨hbuild, htree, -⟩ := buildStoresTheTree u (congrArg Valid.ftV hvalid)
  rw [hft] at hbuild htree
  obtain ⟨harena, hroot⟩ := Prod.mk.inj (htree.trans (htreeOk (hct (henc hv))).symm)
  rw [s.tables.ft_length] at hoff
  exact ⟨u, hread, herr, congrArg Valid.ftV hvalid, congrArg Valid.hdrV hvalid,
    Tables.ftN_eq_of_ft_eq hft, hft, BitVec.eq_of_toNat_eq (by omega), BitVec.eq_of_toNat_eq (by omega),
    eq_ofNat_of_toNat_eq hoff, eq_ofNat_of_toNat_eq (hpay.trans hp), _, hbuild, harena, hroot⟩

end Sys2Proof.Machine
end

section
/-! PROOFS. READ_HDR's errors (44_container.md rule R172): the parser stops at the first field that fails its check, and names
the field's offset. -/

namespace Sys2Proof.Machine

/-! ### The loop over the entries -/

theorem readEntries_add (sym8 : Bool) (get : Nat → Byte) (n k off : Nat) (t : FreqTable) :
    readEntries sym8 get (n + k) off t = (readEntries sym8 get n off t).bind (readEntries sym8 get k (off + 3 * n)) := by
  induction n generalizing off t with
  | zero => rw [Nat.zero_add]; rfl
  | succ n ih =>
    rw [Nat.add_right_comm]
    simp only [readEntries]
    split
    · rfl
    split
    · rfl
    split
    · rfl
    · rw [ih, Nat.mul_succ, Nat.add_assoc, Nat.add_comm 3]

section Entries

variable {sym8 : Bool} {get : Nat → Byte} {off : Nat} {ft : FreqTable}

/-- Allowed entries are read, and the loop goes on behind them. -/
theorem readEntries_of_allowed (hb : BytesAt get off (ft.flatMap entryBytes)) (ha : headerAllowed sym8 ft 0 0) (k : Nat) :
    readEntries sym8 get (ft.length + k) off [] = readEntries sym8 get k (off + 3 * ft.length) ft := by
  obtain ⟨-, hnodup, hval, -⟩ := ha
  rw [readEntries_add, readEntries_of_bytesAt hb (by simpa using hnodup) hval]
  rfl

/-- A symbol too wide or repeated (R172). -/
theorem readEntries_badSymbol (h : tooWide sym8 (get off) = true ∨ get off ∈ ft.map Prod.fst) (n : Nat) :
    readEntries sym8 get (n + 1) off ft = .error (corrupt off) := by
  rw [readEntries]
  by_cases hw : tooWide sym8 (get off) = true
  · exact if_pos hw
  · rw [if_neg hw, if_pos (h.resolve_left hw)]

/-- A count of 0 (R172). -/
theorem readEntries_zeroCount (hw : tooWide sym8 (get off) = false) (hs : get off ∉ ft.map Prod.fst)
    (hhi : get (off + 1) = 0) (hlo : get (off + 2) = 0) (n : Nat) :
    readEntries sym8 get (n + 1) off ft = .error (corrupt (off + 1)) := by
  rw [readEntries, if_neg (Bool.eq_false_iff.mp hw), if_neg hs, hhi, hlo]
  exact if_pos (by decide)

end Entries

/-! ### The parser -/

section Parser

variable {sym8 : Bool} {get : Nat → Byte} {len n : Nat}

/-- R170: the first four bytes are the entry count. -/
theorem count_of_bytesAt (hb : BytesAt get 0 (be32 n)) (hn : n < 2 ^ 32) :
    ofBe32 (get 0) (get 1) (get 2) (get 3) = n := by
  obtain ⟨h0, h1, h2, h3, -⟩ := hb
  rw [h0, h1, h2, h3, ofBe32_be32 n hn]

/-- An entry count that reads past the end, or above 256 (R172). -/
theorem parseHeader_badCount (hb : BytesAt get 0 (be32 n)) (hn : n < 2 ^ 32) (h : len < headerLen n ∨ 256 < n) :
    parseHeader sym8 get len = .error (corrupt 0) := by
  simp only [parseHeader, count_of_bytesAt hb hn]
  split
  · rfl
  split
  · rfl
  · next hfits => rw [if_pos (h.resolve_left hfits)]

/-- Past the entry count the entries are read (R172). -/
theorem parseHeader_of_entries_error {e : CmdError} (hb : BytesAt get 0 (be32 n)) (hfits : headerLen n ≤ len)
    (hmax : n ≤ 256) (he : readEntries sym8 get n 4 [] = .error e) : parseHeader sym8 get len = .error e := by
  have h4 : ¬len < 4 := by unfold headerLen at hfits; omega
  simp only [parseHeader, count_of_bytesAt hb (by omega), if_neg h4, if_neg (Nat.not_lt.mpr hfits),
    if_neg (Nat.not_lt.mpr hmax), he]

/-- Padding above 7, or nonzero before an empty payload (R172). -/
theorem parseHeader_badPad {ft : FreqTable} {pad : Byte} {p : Nat} (hb : BytesAt get 0 (headerBytes ft pad))
    (ha : headerAllowed sym8 ft 0 0) (h : 7 < pad.toNat ∨ (p = 0 ∧ pad ≠ 0)) :
    parseHeader sym8 get (headerLen ft.length + p) = .error (corrupt (4 + 3 * ft.length)) := by
  obtain ⟨hfront, hlast, -⟩ := bytesAt_append.mp hb
  obtain ⟨hcount, hentries⟩ := bytesAt_append.mp hfront
  rw [List.length_append, be32_length, flatMap_entryBytes_length, Nat.zero_add] at hlast
  have hread : readEntries sym8 get ft.length 4 [] = .ok ft := readEntries_of_allowed hentries ha 0
  obtain ⟨hmax, -⟩ := ha
  have h4 : ¬headerLen ft.length + p < 4 := by unfold headerLen; omega
  simp only [parseHeader, count_of_bytesAt hcount (by omega), if_neg h4, if_neg (Nat.not_lt.mpr (Nat.le_add_right _ p)),
    if_neg (Nat.not_lt.mpr hmax), hread, hlast, Nat.add_sub_cancel_left]
  by_cases hpad : 7 < pad.toNat
  · exact if_pos hpad
  · rw [if_neg hpad, if_pos (h.resolve_left hpad)]

end Parser

/-! ### The command -/

/-- CONT_BUF holds the container's bytes. -/
theorem State.bytesAt_container (s : State) : BytesAt s.contRead 0 s.container := Buffer.bytesAt_readList ..

theorem exec_readHdr_of_error {s : State} {e : CmdError} (hl : s.contLen.toNat ≤ s.caps.contCap)
    (he : parseHeader s.sym8 s.contRead s.contLen.toNat = .error e) :
    exec .readHdr s = .next (s.tablesFailure e.code e.info) := by
  rw [exec_eq, stageOf, stageReadHdr, if_neg (Nat.not_lt.mpr hl), he, complete_loseTablesWith]

/-- An error at the entry behind `ft.length` allowed ones ends the command. -/
theorem exec_readHdr_of_entry_error {s : State} {n : Nat} {ft : FreqTable} {rest : List Byte} {e : CmdError}
    (hl : s.contLen.toNat ≤ s.caps.contCap) (hmax : n ≤ 256) (hfits : headerLen n ≤ s.contLen.toNat)
    (hn : ft.length < n) (hc : s.container = be32 n ++ (ft.flatMap entryBytes ++ rest)) (ha : headerAllowed s.sym8 ft 0 0)
    (he : ∀ k, readEntries s.sym8 s.contRead (k + 1) (4 + 3 * ft.length) ft = .error e) :
    exec .readHdr s = .next (s.tablesFailure e.code e.info) := by
  obtain ⟨hcount, hbytes⟩ := bytesAt_append.mp (hc ▸ s.bytesAt_container)
  obtain ⟨hentries, -⟩ := bytesAt_append.mp hbytes
  obtain ⟨k, rfl⟩ := Nat.exists_eq_add_of_lt hn
  exact exec_readHdr_of_error hl (parseHeader_of_entries_error hcount hfits hmax
    ((readEntries_of_allowed hentries ha (k + 1)).trans (he k)))

/-- Settles O26: in front of the failing check every check passes. -/
theorem readHdrRejectsTheFirstBadField : Obligations.ReadHdrRejectsTheFirstBadField := by
  refine ⟨fun s hl => ?_, fun s hl h4 => ?_, fun s n rest hl hn hc h => ?_,
    fun s n ft m hi lo rest hl hmax hfits hn hc ha => ?_, fun s ft pad payload hl hc ha h => ?_⟩
  · rw [exec_eq, stageOf, stageReadHdr, if_pos hl, complete_loseTablesWith]
  · exact exec_readHdr_of_error hl (if_pos h4)
  · obtain ⟨hcount, -⟩ := bytesAt_append.mp (hc ▸ s.bytesAt_container)
    exact exec_readHdr_of_error hl (parseHeader_badCount hcount hn h)
  · rw [List.append_assoc, List.append_assoc] at hc
    obtain ⟨-, hbytes⟩ := bytesAt_append.mp (hc ▸ s.bytesAt_container)
    obtain ⟨-, hm, hhi, hlo, -⟩ := bytesAt_append.mp hbytes
    rw [be32_length, flatMap_entryBytes_length, Nat.zero_add] at hm hhi hlo
    refine ⟨fun hsym => ?_, fun hw hs hhi0 hlo0 => ?_⟩
    · exact exec_readHdr_of_entry_error hl hmax hfits hn hc ha (readEntries_badSymbol (hm ▸ hsym))
    · have hoff : 5 + 3 * ft.length = 4 + 3 * ft.length + 1 := by omega
      rw [hoff]
      exact exec_readHdr_of_entry_error hl hmax hfits hn hc ha
        (readEntries_zeroCount (hm ▸ hw) (hm ▸ hs) (hhi.trans hhi0) (hlo.trans hlo0))
  · obtain ⟨hbytes, -⟩ := bytesAt_append.mp (hc ▸ s.bytesAt_container)
    rw [← List.length_eq_zero_iff] at h
    exact exec_readHdr_of_error hl (State.contLen_of_container hc ▸ parseHeader_badPad hbytes ha h)

end Sys2Proof.Machine
end

section
/-! PROOFS. INSPECT and DECOMPRESS of an allowed header and a payload (46_top.md rules R192, R193): READ_HDR and BUILD leave
the table, its tree and the payload descriptors, and DECODE the message. -/

namespace Sys2Proof.Machine

/-! ### The tables behind a header and its tree -/

/-- The storage with a header in front of `p` bytes of payload and the tree of its table. -/
def Tables.opened (t : Tables) (ft : FreqTable) (pad : Byte) (p : Nat) : Tables :=
  (t.setHeader { table := ft, pad := pad } (headerLen ft.length + p)).setTree (buildTree ft)

/-- The codes of the stored tree are those of its table over the arena before (R150). -/
theorem Tables.generateCodes_opened (t : Tables) (ft : FreqTable) (pad : Byte) (p : Nat) :
    generateCodes (t.opened ft pad p).nodes (t.opened ft pad p).root = codesOf ft t.nodes := rfl

section Opened

variable (t : Tables) {sym8 : Bool} {ft : FreqTable} {pad : Byte} {p : Nat} (hfit : headerLen ft.length + p ≤ 1048576)
  (ha : headerAllowed sym8 ft pad p)

include hfit ha

/-- The header's fields read back (R172). -/
theorem Tables.opened_fields :
    (t.opened ft pad p).ft = ft ∧ (t.opened ft pad p).pad.toNat = pad.toNat ∧
      (t.opened ft pad p).bitLen.toNat = 8 * p - pad.toNat ∧ (t.opened ft pad p).payOff.toNat = 5 + 3 * ft.length ∧
      (t.opened ft pad p).payLen.toNat = p := by
  obtain ⟨hft, -, hpad, hoff, hpay, hbits⟩ := t.setHeader_fields hfit ha
  exact ⟨hft, hpad, hbits, hoff, hpay⟩

theorem Tables.treeOk_opened : (t.opened ft pad p).treeOk := by
  have htree := (t.setHeader { table := ft, pad := pad } (headerLen ft.length + p)).treeOk_setTree
  rw [(t.setHeader_fields hfit ha).1] at htree
  exact htree

theorem Tables.ftOk_opened : (t.opened ft pad p).ftOk := by
  obtain ⟨hft, -⟩ := t.opened_fields hfit ha
  obtain ⟨-, hnodup, hval, -⟩ := ha
  unfold Tables.ftOk
  rw [hft]
  exact ⟨hnodup, fun e he => (hval e he).2⟩

end Opened

/-! ### READ_HDR and BUILD -/

section Container

variable {s : State} {ft : FreqTable} {pad : Byte} {payload : List Byte}
  (hc : s.container = headerBytes ft pad ++ payload)

include hc

/-- A container within the capacity is within R9's bound. -/
theorem State.container_fits (hk : s.caps.wf = true) (hl : s.contLen.toNat ≤ s.caps.contCap) :
    headerLen ft.length + payload.length ≤ 1048576 :=
  State.contLen_of_container hc ▸ hl.trans (Caps.wf_contCap hk)

/-- The payload is what stands behind the header (R105). -/
theorem State.payload_of_container (hoff : s.tables.payOff.toNat = headerLen ft.length)
    (hpay : s.tables.payLen.toNat = payload.length) : s.payload = payload := by
  rw [State.container, State.contLen_of_container hc, Buffer.readList_append, Nat.zero_add] at hc
  rw [State.payload, hoff, hpay]
  exact List.append_inj_right hc (by rw [Buffer.readList_length, headerBytes_length])

/-- The state with a container's header and tree in the tables, and VALID saying so. -/
def State.opened (s : State) (ft : FreqTable) (pad : Byte) (p : Nat) : State :=
  (s.setTables (s.tables.opened ft pad p)).setValid Valid.afterReadHdr.afterBuild

/-- READ_HDR and BUILD in order leave the header's table with its tree (R193). -/
theorem readHdrBuild_of_container (hk : s.caps.wf = true) (hl : s.contLen.toNat ≤ s.caps.contCap)
    (ha : headerAllowed s.sym8 ft pad payload.length) :
    (stageReadHdr s).andThen stageBuild = .ok (s.opened ft pad payload.length) := by
  obtain ⟨hft, -⟩ := s.tables.setHeader_fields (State.container_fits hc hk hl) ha
  rw [stageReadHdr_of_container hl hc ha, Stage.andThen_ok, stageBuild_of_ftV rfl, buildBody]
  simp only [State.setValid_tables, State.setTables_tables, hft, State.setValid_setTables, State.setTables_setTables,
    State.setValid_setValid]
  rfl

end Container

/-- Settles O32: INSPECT is READ_HDR and BUILD. -/
theorem inspectRebuildsTableAndTree : Obligations.InspectRebuildsTableAndTree := by
  intro s ft pad payload hk hl hc ha
  have hfit := State.container_fits hc hk hl
  obtain ⟨hft, hpad, hbits, hoff, hpay⟩ := s.tables.opened_fields hfit ha
  have htree := s.tables.treeOk_opened hfit ha
  rw [Tables.treeOk, hft] at htree
  refine ⟨_, exec_eq .inspect s, ?_⟩
  simp only [stageOf, stageInspect, readHdrBuild_of_container hc hk hl ha]
  exact ⟨rfl, hft, htree, hpad, hbits, hoff, hpay⟩

/-! ### DECODE of the opened container -/

/-- DECODE of a payload that encodes symbols which fit stores them (R183). -/
theorem stageDecode_of_decodesTo {s : State} {out : List Byte} (ht : s.valid.treeV = true) (hh : s.valid.hdrV = true)
    (hft : s.tables.ftOk) (htree : s.tables.treeOk) (hcap : out.length ≤ s.caps.msgCap)
    (hd : decodesTo s.tables.ft (generateCodes s.tables.nodes s.tables.root) (unpack s.payload s.tables.pad.toNat) out) :
    stageDecode s = .ok ((s.msgWrite 0 out).setMsgLen (BitVec.ofNat 32 out.length)) := by
  rw [stageDecode_of_treeV_hdrV ht hh, decodeBody, decodeMessage_of_decodesTo hft htree hcap hd]

/-- A message stored at the front, with its length, reads back. -/
theorem State.message_of_msgWrite {s : State} {out : List Byte} (hk : s.caps.wf = true)
    (hcap : out.length ≤ s.caps.msgCap) :
    (BitVec.ofNat 32 out.length).toNat = out.length ∧
      ((s.msgWrite 0 out).setMsgLen (BitVec.ofNat 32 out.length)).message = out := by
  have hlen : (BitVec.ofNat 32 out.length).toNat = out.length :=
    toNat_ofNat_of_lt (by have := Caps.wf_msgCap hk; omega)
  refine ⟨hlen, ?_⟩
  simp only [State.message, State.setMsgLen_msgLen, hlen]
  exact Buffer.readList_writeList (cap := s.caps.msgCap) (by omega)

/-- Settles O31: READ_HDR and BUILD open the container, and DECODE reads the message off the tree. -/
theorem decompressRecoversTheSymbols : Obligations.DecompressRecoversTheSymbols := by
  intro s ft pad payload out hk hl hc ha hcap hd
  have hfit := State.container_fits hc hk hl
  obtain ⟨hft, hpad, hbits, hoff, hpay⟩ := s.tables.opened_fields hfit ha
  have htree := s.tables.treeOk_opened hfit ha
  have hftOk := s.tables.ftOk_opened hfit ha
  have hpayload := State.payload_of_container (s := s.opened ft pad payload.length) hc hoff hpay
  have hdecode : stageDecode (s.opened ft pad payload.length) =
      .ok (((s.opened ft pad payload.length).msgWrite 0 out).setMsgLen (BitVec.ofNat 32 out.length)) := by
    refine stageDecode_of_decodesTo rfl rfl hftOk htree hcap ?_
    rw [hpayload]
    simpa [State.opened, Tables.generateCodes_opened, hft, hpad] using hd
  obtain ⟨hlen, hmsg⟩ := State.message_of_msgWrite (s := s.opened ft pad payload.length) hk hcap
  rw [Tables.treeOk, hft] at htree
  refine ⟨_, exec_eq .decompress s, ?_⟩
  simp only [stageOf, stageDecompress, readHdrBuild_of_container hc hk hl ha, Stage.andThen_ok, hdecode, Stage.onError_ok,
    Stage.complete_ok]
  refine ⟨?_, hft, htree, hpad, hbits, hoff, hpay, hlen, hmsg⟩
  simp [State.succeed, State.opened, Valid.afterReadHdr, Valid.afterBuild, Valid.clear]

end Sys2Proof.Machine
end

section
/-! PROOFS. Unpacking (45_decoder.md rules R181, R182): the bits of a byte string, most significant first, and unpacking as the
inverse of packing. -/

namespace Sys2Proof.Machine

/-! ### The bits of bytes -/

theorem bitsOfByte_eq_map (b : Byte) : bitsOfByte b = (List.range 8).map fun j => b.getLsbD (7 - j) := rfl

theorem flatMap_bitsOfByte_length (bytes : List Byte) : (bytes.flatMap bitsOfByte).length = 8 * bytes.length := by
  simp [List.length_flatMap, Nat.mul_comm]

/-- R107: bit j of the string is bit 7 − (j mod 8) of byte j div 8. -/
theorem flatMap_bitsOfByte_getElem? (bytes : List Byte) (j : Nat) :
    (bytes.flatMap bitsOfByte)[j]? = (bytes[j / 8]?).map fun b => b.getLsbD (7 - j % 8) := by
  induction bytes generalizing j with
  | nil => rfl
  | cons b bytes ih =>
    rw [List.flatMap_cons]
    by_cases hj : j < 8
    · rw [List.getElem?_append_left hj, Nat.div_eq_of_lt hj, Nat.mod_eq_of_lt hj, bitsOfByte_eq_map]
      simp [hj]
    · obtain ⟨k, rfl⟩ := Nat.exists_eq_add_of_le (Nat.le_of_not_lt hj)
      rw [List.getElem?_append_right (Nat.le_add_right 8 k), bitsOfByte_length, Nat.add_sub_cancel_left, ih,
        Nat.add_div_left k (by decide), Nat.add_mod_left, List.getElem?_cons_succ]

/-- Bytes that agree from bit `pad` on have the same leading bits. -/
theorem take_bitsOfByte_congr {x y : Byte} {pad : Nat} (h : ∀ k, pad ≤ k → x.getLsbD k = y.getLsbD k) :
    (bitsOfByte x).take (8 - pad) = (bitsOfByte y).take (8 - pad) := by
  rw [bitsOfByte_eq_map, bitsOfByte_eq_map, ← List.map_take, ← List.map_take, List.take_range]
  exact List.map_congr_left fun j hj => h _ (by have := List.mem_range.mp hj; omega)

/-! ### `unpack` -/

theorem unpack_length (bytes : List Byte) (pad : Nat) : (unpack bytes pad).length = 8 * bytes.length - pad := by
  rw [unpack, List.length_take, flatMap_bitsOfByte_length, Nat.min_eq_left (Nat.sub_le ..)]

/-- The bits are those that unpacking without padding gives, up to the padding. -/
theorem unpack_eq_take (bytes : List Byte) (pad : Nat) :
    unpack bytes pad = (unpack bytes 0).take (8 * bytes.length - pad) := by
  rw [unpack, unpack, List.take_take, Nat.sub_zero, Nat.min_eq_left (Nat.sub_le ..)]

/-- At most the last byte is padding. -/
theorem unpack_concat (bytes : List Byte) (x : Byte) {pad : Nat} (hpad : pad ≤ 7) :
    unpack (bytes ++ [x]) pad = bytes.flatMap bitsOfByte ++ (bitsOfByte x).take (8 - pad) := by
  have hlen : 8 * (bytes ++ [x]).length - pad = (bytes.flatMap bitsOfByte).length + (8 - pad) := by
    rw [flatMap_bitsOfByte_length, List.length_append, List.length_singleton]
    omega
  rw [unpack, hlen, List.flatMap_append, List.flatMap_singleton, List.take_length_add_append]

/-- Settles O23: the length, the bits and the ignored padding of `unpack`. -/
theorem unpackReadsBitsMostSignificantFirst : Obligations.UnpackReadsBitsMostSignificantFirst := by
  refine ⟨fun bytes pad => ⟨unpack_length bytes pad, fun j hj => ?_⟩, fun bytes x y pad hpad h => ?_⟩
  · rw [unpack, List.getElem?_take_of_lt hj, flatMap_bitsOfByte_getElem?]
  · rw [unpack_concat bytes x hpad, unpack_concat bytes y hpad, take_bitsOfByte_congr h]

/-- Settles O21: `unpack` drops the padding that `pack` appended. -/
theorem unpackInvertsPack : Obligations.UnpackInvertsPack := fun bits => by
  have hlen : 8 * (pack bits).1.length - (pack bits).2 = bits.length := by
    rw [pack_length, ← padOf_ceil8]
    exact Nat.add_sub_cancel ..
  rw [unpack_eq_take, hlen, unpack_pack_zero, List.take_left]

end Sys2Proof.Machine
end

section
/-! PROOFS. DECODE's errors (45_decoder.md rules R180, R183): the walk along a path that stays inside the tree keeps where its
code began, since no path leads back to the root; a walk that ends there, or at a leaf with MSG_BUF full, names that index. -/

namespace Sys2Proof.Machine

/-! ### Paths in the tree -/

theorem follow_append (nodes : Vector Node 511) (i : BitVec 9) (p q : Bits) :
    follow nodes i (p ++ q) = (follow nodes i p).bind fun j => follow nodes j q := by
  induction p generalizing i with
  | nil => rfl
  | cons b p ih =>
    simp only [List.cons_append, follow]
    cases nodeAt nodes i with
    | leaf sym f => rfl
    | internal f l r => exact ih _

/-- A path one edge longer goes through an internal node. -/
theorem follow_concat_eq_some {nodes : Vector Node 511} {i k : BitVec 9} {p : Bits} {b : Bool}
    (h : follow nodes i (p ++ [b]) = some k) :
    ∃ j f l r, follow nodes i p = some j ∧ nodeAt nodes j = .internal f l r ∧ k = if b then r else l := by
  rw [follow_append] at h
  obtain ⟨j, hj, hk⟩ := Option.bind_eq_some_iff.mp h
  rw [follow] at hk
  cases hn : nodeAt nodes j with
  | leaf sym f => rw [hn] at hk; cases hk
  | internal f l r => rw [hn] at hk; cases hk; exact ⟨j, f, l, r, hj, hn, rfl⟩

/-- A path back to its start can be walked again and again. -/
theorem follow_flatten_replicate {nodes : Vector Node 511} {i : BitVec 9} {p : Bits} (h : follow nodes i p = some i)
    (n : Nat) : follow nodes i (List.replicate n p).flatten = some i := by
  induction n with
  | zero => rfl
  | succ n ih => rw [List.replicate_succ, List.flatten_cons, follow_append, h, Option.bind_some, ih]

/-- R144: no path leads from the root back to it, since paths are shorter than the table. -/
theorem Tables.eq_nil_of_follow_root {t : Tables} (ht : t.treeOk) (hne : t.ft ≠ []) {p : Bits}
    (h : follow t.nodes t.root p = some t.root) : p = [] := by
  have hlt := t.path_length_lt ht hne (follow_flatten_replicate h t.ftN.val)
  rw [List.length_flatten, List.map_replicate, List.sum_replicate, smul_eq_mul] at hlt
  exact List.eq_nil_of_length_eq_zero
    (Nat.lt_one_iff.mp (Nat.lt_of_mul_lt_mul_left (a := t.ftN.val) (by rwa [Nat.mul_one])))

/-! ### The walk inside a code (R180) -/

section Walk

variable {cap : Nat} {nodes : Vector Node 511} {root : BitVec 9}
  (hback : ∀ p, follow nodes root p = some root → p = [])

include hback

/-- Where the current code began stays as it is off the root, and at the root it is where the walk stands. -/
theorem start_of_follow {p : Bits} {k : BitVec 9} (h : follow nodes root p = some k) (j : Nat) :
    (if k = root then j + p.length else j) = j := by
  split
  · next hk => rw [hback p (hk ▸ h)]; rfl
  · rfl

/-- The walk along a path to an internal node emits nothing. -/
theorem walk_of_follow_internal {path : Bits} {k l r : BitVec 9} {f : BitVec 32}
    (hk : follow nodes root path = some k) (hn : nodeAt nodes k = .internal f l r) (rest : Bits) (j : Nat)
    (out : List Byte) :
    walk cap nodes root (path ++ rest) j root 0 out = walk cap nodes root rest (j + path.length) k j out := by
  induction path using List.reverseRecOn generalizing k f l r rest with
  | nil =>
    cases hk
    exact (walk_at_root rest j j out).symm
  | append_singleton p b ih =>
    obtain ⟨i, f', l', r', hi, hni, rfl⟩ := follow_concat_eq_some hk
    rw [List.append_assoc, ih hi hni, List.singleton_append]
    simp only [walk, hni, hn, start_of_follow hback hi, List.length_append, List.length_singleton, Nat.add_assoc]

/-- Bits that end inside a code are malformed from where the code began. -/
theorem walk_of_unfinished_code {path : Bits} {k l r : BitVec 9} {f : BitVec 32} (hne : path ≠ [])
    (hk : follow nodes root path = some k) (hn : nodeAt nodes k = .internal f l r) (j : Nat) (out : List Byte) :
    walk cap nodes root path j root 0 out = .error { code := .malformedStream, info := BitVec.ofNat 32 j } := by
  have hkroot : k ≠ root := fun h => hne (hback path (h ▸ hk))
  have hwalk := walk_of_follow_internal (cap := cap) hback hk hn [] j out
  rwa [List.append_nil, walk, if_neg hkroot] at hwalk

/-- A code that completes when MSG_BUF is full overflows it from where the code began. -/
theorem walk_of_full {path : Bits} {m : Byte} {l r : BitVec 9} {f : BitVec 32}
    (hroot : nodeAt nodes root = .internal f l r) (hp : LeadsTo nodes root path m) (rest : Bits) (j : Nat)
    {out : List Byte} (hfull : out.length = cap) :
    walk cap nodes root (path ++ rest) j root 0 out = .error { code := .capacity, info := BitVec.ofNat 32 j } := by
  obtain ⟨k, g, hk, hleaf⟩ := hp
  cases path using List.reverseRecOn with
  | nil =>
    cases hk
    rw [hroot] at hleaf
    cases hleaf
  | append_singleton p b =>
    obtain ⟨i, f', l', r', hi, hni, rfl⟩ := follow_concat_eq_some hk
    rw [List.append_assoc, walk_of_follow_internal hback hi hni, List.singleton_append]
    simp only [walk, hni, hleaf, start_of_follow hback hi, if_pos hfull]

end Walk

/-! ### The errors of the payload's bits (R183) -/

/-- Bits for a tree of no nodes or a single leaf. -/
theorem decodeMessage_of_bits {cap : Nat} {t : Tables} {bits : Bits} (hft : t.ftOk) (ht : t.treeOk)
    (hlen : t.ftN.val ≤ 1) (hbits : bits ≠ []) : decodeMessage cap t bits = .error malformedAtZero := by
  have hpos : bits.length ≠ 0 := mt List.eq_nil_of_length_eq_zero hbits
  rw [← t.ft_length] at hlen
  match hs : t.ft with
  | [] => rw [decodeMessage, if_pos (t.tree_of_empty ht hs).2, if_neg hpos]
  | [(m, n)] =>
    obtain ⟨f, hn, -⟩ := t.nodeAt_root_of_single hft ht hs
    rw [decodeMessage, if_neg (t.root_ne_noneIndex ht (by simp [hs]))]
    simp only [hn, if_neg hpos]
  | _ :: _ :: _ => simp [hs] at hlen

/-- A single leaf's repeats that exceed MSG_BUF. -/
theorem decodeMessage_of_repeats {cap n : Nat} {t : Tables} {m : Byte} (hft : t.ftOk) (ht : t.treeOk)
    (hs : t.ft = [(m, n)]) (hcap : cap < n) :
    decodeMessage cap t [] = .error { code := .capacity, info := BitVec.ofNat 32 n } := by
  obtain ⟨f, hn, hf⟩ := t.nodeAt_root_of_single hft ht hs
  rw [decodeMessage, if_neg (t.root_ne_noneIndex ht (by simp [hs]))]
  simp only [hn, List.length_nil, if_true, hf, if_pos hcap, ← eq_ofNat_of_toNat_eq hf]

/-- The codes of symbols that fit are walked, and the walk goes on at the root with the bits behind them. -/
theorem decodeMessage_of_codes {cap : Nat} {t : Tables} {out : List Byte} (hft : t.ftOk) (ht : t.treeOk)
    (h2 : 2 ≤ t.ftN.val) (hcap : out.length ≤ cap)
    (hcodes : ∀ m ∈ out, (ctAt (generateCodes t.nodes t.root) m).isSome = true) (rest : Bits) :
    decodeMessage cap t (encodeBits (generateCodes t.nodes t.root) out ++ rest) =
      walk cap t.nodes t.root rest (encodeBits (generateCodes t.nodes t.root) out).length t.root 0 out := by
  rw [← t.ft_length] at h2
  have hne : t.ft ≠ [] := List.ne_nil_of_length_pos (by omega)
  obtain ⟨f, l, r, hn⟩ := t.nodeAt_root_of_two ht h2
  have hpaths : ∀ m ∈ out, LeadsTo t.nodes t.root ((ctAt (generateCodes t.nodes t.root) m).getD []) m := fun m hm => by
    obtain ⟨c, hc⟩ := Option.isSome_iff_exists.mp (hcodes m hm)
    rw [hc]
    exact ((ctAt_generateCodes_iff hft ht m c).mp hc).2
  rw [decodeMessage, if_neg (t.root_ne_noneIndex ht hne)]
  simp only [hn, walk_encodeBits hn rest hpaths 0 (out := []) (by simpa using hcap), Nat.zero_add, List.nil_append]

/-! ### The command -/

/-- A failing DECODE completes with the failure's effects (R183, R206). -/
theorem exec_decode_of_error {s : State} {e : CmdError} (ht : s.valid.treeV = true) (hh : s.valid.hdrV = true)
    (he : decodeMessage s.caps.msgCap s.tables (unpack s.payload s.tables.pad.toNat) = .error e) :
    exec .decode s = .next (s.decodeFailure e.code e.info) := by
  rw [exec_eq, stageOf, stageDecode_of_treeV_hdrV ht hh, decodeBody, he]
  rfl

/-- Settles O29: bits where none may stand, repeats that do not fit, and the walk's two errors behind complete codes. -/
theorem decodeReportsMalformedStreamsAndOverflow : Obligations.DecodeReportsMalformedStreamsAndOverflow := by
  intro s hs htv hhv
  obtain ⟨-, ⟨-, htf, -, -⟩, hft, htree, -⟩ := hs
  have hft := hft (htf htv)
  have ht := htree htv
  have hback : 2 ≤ s.tables.ftN.val → ∀ p, follow s.tables.nodes s.tables.root p = some s.tables.root → p = [] :=
    fun h2 p => s.tables.eq_nil_of_follow_root ht
      (List.ne_nil_of_length_pos (by rw [s.tables.ft_length]; omega))
  refine ⟨fun h1 hbits => ?_, fun m n hsingle hbits hcap => ?_,
    fun out rest j l r f h2 hcap hcodes hbits hne hj hn => ?_, fun out m c rest h2 hfull hcodes hm hbits => ?_⟩
  · exact exec_decode_of_error htv hhv (decodeMessage_of_bits hft ht h1 hbits)
  · exact exec_decode_of_error htv hhv (hbits ▸ decodeMessage_of_repeats hft ht hsingle hcap)
  · refine exec_decode_of_error (e := ⟨_, _⟩) htv hhv ?_
    rw [hbits, decodeMessage_of_codes hft ht h2 hcap hcodes]
    exact walk_of_unfinished_code (hback h2) hne hj hn _ out
  · obtain ⟨f, l, r, hroot⟩ := s.tables.nodeAt_root_of_two ht (s.tables.ft_length ▸ h2)
    obtain ⟨-, hpath⟩ := (ctAt_generateCodes_iff hft ht m c).mp hm
    refine exec_decode_of_error (e := ⟨_, _⟩) htv hhv ?_
    rw [hbits, List.append_assoc, decodeMessage_of_codes hft ht h2 hfull.le hcodes]
    exact walk_of_full (hback h2) hroot hpath rest _ hfull

end Sys2Proof.Machine
end

section
/-! PROOFS. COMPRESS and DECOMPRESS undo each other (45_decoder.md rule R184, 46_top.md rules R191, R192): a COMPRESS that leaves
all VALID bits set met every bound, and the container it then leaves decodes to the message. -/

namespace Sys2Proof.Machine

/-! ### What a successful COMPRESS says of the message -/

/-- COMPRESS's first three stages fail with VALID clear, or the message is in bounds (R131). -/
theorem countBuildGen_cases (s : State) :
    (∃ v e, ((stageCount s).andThen stageBuild).andThen stageGen = .err v e ∧ v.valid = Valid.clear) ∨
    (s.msgLen.toNat ≤ s.caps.msgCap ∧ (∀ m ∈ s.message, tooWide s.sym8 m = false) ∧
      (∀ m, s.message.count m ≤ 65535)) := by
  rcases stageCount_cases s with ⟨-, h⟩ | ⟨-, e, -, h⟩ | ⟨hl, hloop, -⟩
  · exact .inl ⟨_, _, by rw [h]; rfl, rfl⟩
  · exact .inl ⟨_, _, by rw [h]; rfl, rfl⟩
  · refine .inr ⟨hl, (countLoop_ok hloop).2, fun m => ?_⟩
    rw [← countOf_countFrequencies]
    exact countLoop_bound hloop (fun _ => Nat.zero_le _) m

/-- With CT_V set, ENC_V behind ENCODE and WRITE_HDR says that the container fits (R163). -/
theorem container_fits_of_encV {s : State} (hv : s.valid.ctV = true)
    (henc : ((stageEncode s).andThen stageWriteHdr).state.valid.encV = true) :
    headerLen s.tables.ftN.val + ceil8 (encodeBits s.tables.ct s.message).length ≤ s.caps.contCap := by
  rcases stageEncode_cases s with ⟨-, h⟩ | ⟨hct, -⟩
  · rcases encodeBody_cases s with ⟨e, hb⟩ | ⟨-, -, hfit, -⟩
    · rw [h, hb] at henc
      cases henc
    · exact hfit
  · rw [hv] at hct
    cases hct

/-- A failing COMPRESS's last effect is on CONT_LEN alone (R191). -/
theorem onError_setContLen_valid (r : Stage) (n : Word) :
    (r.onError fun t => t.setContLen n).state.valid = r.state.valid := by
  cases r <;> rfl

/-- ENC_V after COMPRESS marks its success: the message is in bounds, and its container fits (R191, R207). -/
theorem bounds_of_compress_encV {s t : State} (h : exec .compress s = .next t) (henc : t.valid.encV = true) :
    s.msgLen.toNat ≤ s.caps.msgCap ∧ (∀ m ∈ s.message, tooWide s.sym8 m = false) ∧ (∀ m, s.message.count m ≤ 65535) ∧
      headerLen (countFrequencies s.message).length +
        ceil8 (encodeBits (codesOf (countFrequencies s.message) s.tables.nodes) s.message).length ≤ s.caps.contCap := by
  rw [exec_eq] at h
  cases h
  rw [Stage.complete_valid, stageOf, stageCompress, onError_setContLen_valid] at henc
  rcases countBuildGen_cases s with ⟨v, e, h, hv⟩ | ⟨hl, hw, hc⟩
  · rw [h, Stage.andThen_err, Stage.andThen_err, Stage.state_err, hv] at henc
    cases henc
  · rw [countBuildGen_of_bounds hl hw hc, Stage.andThen_ok] at henc
    rw [← s.tables.codedFor_ftN (countFrequencies_nodup s.message) (countFrequencies_bounds_of_count hc)]
    exact ⟨hl, hw, hc, container_fits_of_encV rfl henc⟩

/-! ### The bits of a message under its own table -/

/-- The codes of a table do not depend on what the arena held before (R41, R150). -/
theorem codesOf_congr {ft : FreqTable} (hn : (ft.map Prod.fst).Nodup) (hb : ∀ e ∈ ft, 1 ≤ e.2 ∧ e.2 ≤ 65535)
    (t t' : Tables) : codesOf ft t.nodes = codesOf ft t'.nodes :=
  generateCodes_congr (t.codedFor_treeOk hn hb) (t'.codedFor_treeOk hn hb)
    ((t.codedFor_ft hn hb).trans (t'.codedFor_ft hn hb).symm)

/-- R153: the symbol of a single leaf has the empty code. -/
theorem ctAt_codesOf_single (t : Tables) {m : Byte} {n : Nat} (hb : 1 ≤ n ∧ n ≤ 65535) :
    ctAt (codesOf [(m, n)] t.nodes) m = some [] := by
  have hn : ([(m, n)].map Prod.fst).Nodup := List.nodup_singleton m
  have hb : ∀ e ∈ [(m, n)], 1 ≤ e.2 ∧ e.2 ≤ 65535 := by simpa using hb
  have hft := t.codedFor_ft hn hb
  have hftOk := t.codedFor_ftOk hn hb
  have htree := t.codedFor_treeOk hn hb
  obtain ⟨f, hleaf, -⟩ := Tables.nodeAt_root_of_single hftOk htree hft
  have hroot := Tables.root_ne_noneIndex htree (by simp [hft])
  exact (ctAt_generateCodes_iff hftOk htree m []).mpr ⟨hroot, _, f, rfl, hleaf⟩

theorem encodeBits_replicate_of_empty {ct : Vector (Option Bits) 256} {m : Byte} (h : ctAt ct m = some []) (n : Nat) :
    encodeBits ct (List.replicate n m) = [] := by
  simp [encodeBits, h]

/-- A message whose table has a single entry repeats its symbol (R130). -/
theorem eq_replicate_of_countFrequencies {l : List Byte} {m : Byte} {n : Nat} (h : countFrequencies l = [(m, n)]) :
    l = List.replicate n m := by
  have hsum := sum_countFrequencies l
  rw [h, List.map_singleton, List.sum_singleton] at hsum
  refine List.eq_replicate_iff.mpr ⟨hsum.symm, fun x hx => ?_⟩
  simpa [h] using mem_syms_countFrequencies hx

/-- R153, R160: a message's bits under the codes of its own table decode to it. -/
theorem decodesTo_encodeBits (t : Tables) {l : List Byte} (hc : ∀ m, l.count m ≤ 65535) :
    decodesTo (countFrequencies l) (codesOf (countFrequencies l) t.nodes)
      (encodeBits (codesOf (countFrequencies l) t.nodes) l) l := by
  have hn := countFrequencies_nodup l
  have hb := countFrequencies_bounds_of_count hc
  have hsyms : ∀ m ∈ l, m ∈ (countFrequencies l).map Prod.fst := fun m => mem_syms_countFrequencies
  generalize hft : countFrequencies l = ft at hn hb hsyms
  match ft with
  | [] =>
    obtain rfl : l = [] := List.eq_nil_iff_forall_not_mem.mpr fun m hm => nomatch hsyms m hm
    exact ⟨rfl, rfl⟩
  | [(m, n)] =>
    obtain rfl := eq_replicate_of_countFrequencies hft
    exact ⟨encodeBits_replicate_of_empty (ctAt_codesOf_single t (hb (m, n) (by simp))) n, rfl⟩
  | e :: e' :: ft => exact ⟨rfl, fun m hm => t.codedFor_isSome hn hb (hsyms m hm)⟩

/-! ### The container -/

/-- R9: CONT_BUF holds the header of an empty table. -/
theorem Caps.le_contCap_of_wf {c : Caps} (h : c.wf = true) : 5 ≤ c.contCap := by
  simp only [Caps.wf, Bool.and_eq_true, decide_eq_true_eq] at h
  omega

/-- R161: a padding fits the header's byte. -/
theorem toNat_ofNat_pad (bits : Bits) : (BitVec.ofNat 8 (pack bits).2).toNat = (pack bits).2 :=
  toNat_ofNat_of_lt ((padOf_lt bits.length).trans (by decide))

/-- R153, R182: the packed bits of a message decode to it under its table's codes, over an arena of any other contents. -/
theorem decodesTo_unpack_pack {t t' : Tables} {l : List Byte} {bits : Bits} (hc : ∀ m, l.count m ≤ 65535)
    (hbits : bits = encodeBits (codesOf (countFrequencies l) t.nodes) l) :
    decodesTo (countFrequencies l) (codesOf (countFrequencies l) t'.nodes)
      (unpack (pack bits).1 (BitVec.ofNat 8 (pack bits).2).toNat) l := by
  rw [toNat_ofNat_pad, unpackInvertsPack, hbits,
    codesOf_congr (countFrequencies_nodup l) (countFrequencies_bounds_of_count hc) t' t]
  exact decodesTo_encodeBits t hc

/-- R108: the table and the padding of a message in bounds make an allowed header. -/
theorem headerAllowed_countFrequencies {sym8 : Bool} {l : List Byte} (hw : ∀ m ∈ l, tooWide sym8 m = false)
    (hc : ∀ m, l.count m ≤ 65535) (bits : Bits) :
    headerAllowed sym8 (countFrequencies l) (BitVec.ofNat 8 (pack bits).2) (pack bits).1.length := by
  have hn := countFrequencies_nodup l
  have hsym : ∀ e ∈ countFrequencies l, e.1 ∈ l := fun e he => by
    have hmem := List.mem_map_of_mem (f := Prod.fst) he
    rwa [countFrequencies_syms, List.mem_eraseDups] at hmem
  obtain ⟨-, hpad, -⟩ := packPadsWithZeroBits bits
  refine ⟨length_le_of_nodup_syms hn, hn, fun e he => ⟨hw _ (hsym e he), countFrequencies_bounds_of_count hc e he⟩,
    by rwa [toNat_ofNat_pad], fun hempty => BitVec.eq_of_toNat_eq ?_⟩
  have hlen : bits.length + (pack bits).2 = 8 * ceil8 bits.length := padOf_ceil8 bits.length
  rw [pack_length] at hempty
  rw [toNat_ofNat_pad]
  exact Nat.eq_zero_of_add_eq_zero_left (hlen.trans (by rw [hempty]))

/-- The container is what CONT_BUF, CONT_LEN and the capacities make it. -/
theorem State.container_congr {r t : State} (hbuf : r.contBuf = t.contBuf) (hlen : r.contLen = t.contLen)
    (hcaps : r.caps = t.caps) : r.container = t.container := by
  rw [State.container, State.container, hbuf, hlen, hcaps]

/-- R184, its first half: DECOMPRESS of a successful COMPRESS's container answers the message. -/
theorem decompress_of_compress {s t r : State} (hk : s.caps.wf = true) (h : exec .compress s = .next t)
    (henc : t.valid.encV = true) (hbuf : r.contBuf = t.contBuf) (hlen : r.contLen = t.contLen) (hsym : r.sym8 = t.sym8)
    (hcaps : r.caps = t.caps) :
    ∃ u, exec .decompress r = .next u ∧ u.err = r.err ∧
      u.valid = { ftV := true, treeV := true, ctV := false, encV := false, hdrV := true } ∧
      u.msgLen = s.msgLen ∧ u.message = s.message := by
  obtain ⟨hl, hw, hc, hfit⟩ := bounds_of_compress_encV h henc
  obtain ⟨t', ht', hst, -, -, -, hclen, hcont, -⟩ := compressWritesTheContainer s _ _ hk hl hw hc rfl rfl hfit
  obtain rfl := Host.Outcome.next.inj (h.symm.trans ht')
  have htsym := congrArg State.sym8 hst
  have htcaps := congrArg State.caps hst
  have hsym : r.sym8 = s.sym8 := hsym.trans htsym
  have hcaps' : r.caps = s.caps := hcaps.trans htcaps
  have hcont := (State.container_congr hbuf hlen hcaps).trans hcont
  have hfits : r.contLen.toNat ≤ r.caps.contCap := by
    rw [hlen, hclen, hcaps']
    unfold headerLen at hfit
    omega
  obtain ⟨u, hu, huu, -, -, -, -, -, -, hmlen, hmsg⟩ := decompressRecoversTheSymbols r _ _ _ s.message (hcaps' ▸ hk) hfits
    hcont (hsym ▸ headerAllowed_countFrequencies hw hc _) (by rwa [s.message_length, hcaps'])
    (decodesTo_unpack_pack hc rfl)
  have herr := congrArg State.err huu
  have hvalid := congrArg State.valid huu
  exact ⟨u, hu, herr, hvalid, BitVec.eq_of_toNat_eq (hmlen.trans s.message_length), hmsg⟩

/-- Settles O34: the round trip, and COMPRESS of no bytes (O30), whose container is the header of no entries. -/
theorem decompressUndoesCompress : Obligations.DecompressUndoesCompress := by
  refine ⟨fun s t hk h hv r hbuf hlen hsym hcaps =>
    decompress_of_compress hk h (congrArg Valid.encV hv) hbuf hlen hsym hcaps, fun s hk hl => ?_⟩
  have hmsg : s.message = [] := List.eq_nil_of_length_eq_zero (by rw [s.message_length, hl]; rfl)
  obtain ⟨t, ht, hst, -, -, -, hclen, hcont, -⟩ := compressWritesTheContainer s [] [] hk (by simp [hl])
    (by simp [hmsg]) (by simp [hmsg]) (by rw [hmsg]; rfl) (by rw [hmsg]; rfl) (Caps.le_contCap_of_wf hk)
  have herr := congrArg State.err hst
  have hvalid := congrArg State.valid hst
  exact ⟨t, ht, herr, hvalid, BitVec.eq_of_toNat_eq hclen, hcont⟩

end Sys2Proof.Machine
end

section
/-! PROOFS. VALID after every single command (60_exceptions.md rule R207): the errors each loop can raise, and the row of each
stage's outcome. -/

namespace Sys2Proof.Machine

/-! ### Which errors a loop can raise -/

theorem countLoop_error_code {sym8 : Bool} {l : List Byte} {i : Nat} {t : FreqTable} {e : CmdError}
    (h : countLoop sym8 l i t = .error e) : e.code = .symbolWidth ∨ e.code = .freqOverflow := by
  induction l generalizing i t with
  | nil => cases h
  | cons m l ih =>
    rw [countLoop] at h
    split at h
    · cases h
      exact .inl rfl
    split at h
    · cases h
      exact .inr rfl
    · exact ih h

theorem sizeLoop_error_code {sym8 : Bool} {ct : Vector (Option Bits) 256} {l : List Byte} {i n : Nat} {e : CmdError}
    (h : sizeLoop sym8 ct l i n = .error e) : e.code = .symbolWidth ∨ e.code = .unknownSymbol := by
  induction l generalizing i n with
  | nil => cases h
  | cons m l ih =>
    rw [sizeLoop] at h
    split at h
    · cases h
      exact .inl rfl
    split at h
    · cases h
      exact .inr rfl
    · exact ih h

theorem readEntries_error_code {sym8 : Bool} {get : Nat → Byte} {n off : Nat} {t : FreqTable} {e : CmdError}
    (h : readEntries sym8 get n off t = .error e) : e.code = .corruptHeader := by
  induction n generalizing off t with
  | zero => cases h
  | succ n ih =>
    simp only [readEntries] at h
    split at h
    · cases h
      rfl
    split at h
    · cases h
      rfl
    split at h
    · cases h
      rfl
    · exact ih h

theorem parseHeader_error_code {sym8 : Bool} {get : Nat → Byte} {len : Nat} {e : CmdError}
    (h : parseHeader sym8 get len = .error e) : e.code = .corruptHeader := by
  simp only [parseHeader] at h
  split at h
  · cases h
    rfl
  split at h
  · cases h
    rfl
  split at h
  · cases h
    rfl
  split at h
  · rename_i he
    cases h
    exact readEntries_error_code he
  split at h
  · cases h
    rfl
  split at h
  · cases h
    rfl
  · cases h

/-- Past its `require`, ENCODE never fails with NOT_READY (R163, R203). -/
theorem encodeBody_ne_notReady (s : State) :
    (∃ e, encodeBody s = encodeFails s e ∧ e.code ≠ .notReady) ∨ ∃ total, encodeBody s = encodeWrite s total := by
  unfold encodeBody
  split
  · exact .inl ⟨_, rfl, nofun⟩
  split
  · rename_i e he
    refine .inl ⟨e, rfl, fun hc => ?_⟩
    rcases sizeLoop_error_code he with h | h <;> cases h.symm.trans hc
  dsimp only
  split
  · exact .inl ⟨_, rfl, nofun⟩
  · exact .inr ⟨_, rfl⟩

/-! ### VALID after a single command -/

/-- A stage's outcome as R207 tells it. -/
def Stage.outcome : Stage → Option ErrorCode
  | .ok _    => none
  | .err _ e => some e.code

/-- From ERR = 0, ERR and ERR_CODE after the completion tell the outcome (R206). -/
theorem Stage.outcome_of_complete {r : Stage} (h : r.state.err = false) :
    (if r.complete.err then some r.complete.errCode else none) = r.outcome := by
  cases r with
  | ok s => exact if_neg (Bool.eq_false_iff.mp h)
  | err s e => rfl

section Valid

variable (s : State)

theorem stageCount_valid : (stageCount s).state.valid = validAfter .count s.valid (stageCount s).outcome := by
  rcases stageCount_cases s with ⟨-, h⟩ | ⟨-, e, -, h⟩ | ⟨-, -, h⟩ <;> rw [h] <;> rfl

theorem stageBuild_valid : (stageBuild s).state.valid = validAfter .build s.valid (stageBuild s).outcome := by
  rcases stageBuild_cases s with ⟨-, h⟩ | ⟨-, h⟩ <;> rw [h] <;> rfl

theorem stageGen_valid : (stageGen s).state.valid = validAfter .gen s.valid (stageGen s).outcome := by
  rcases stageGen_cases s with ⟨-, h⟩ | ⟨-, h⟩ <;> rw [h] <;> rfl

theorem validAfter_encode_of_ne_notReady (v : Valid) {c : ErrorCode} (h : c ≠ .notReady) :
    validAfter .encode v (some c) = v.afterEncodeFailure := by
  cases c with
  | notReady => exact absurd rfl h
  | _ => rfl

theorem stageEncode_valid : (stageEncode s).state.valid = validAfter .encode s.valid (stageEncode s).outcome := by
  rcases stageEncode_cases s with ⟨-, h⟩ | ⟨-, h⟩ <;> rw [h]
  · rcases encodeBody_ne_notReady s with ⟨e, hb, hcode⟩ | ⟨total, hb⟩ <;> rw [hb]
    · exact (validAfter_encode_of_ne_notReady s.valid hcode).symm
    · rfl
  · rfl

theorem stageWriteHdr_valid :
    (stageWriteHdr s).state.valid = validAfter .writeHdr s.valid (stageWriteHdr s).outcome := by
  rcases stageWriteHdr_cases s with ⟨-, h⟩ | ⟨-, h⟩ <;> rw [h] <;> rfl

theorem stageReadHdr_valid : (stageReadHdr s).state.valid = validAfter .readHdr s.valid (stageReadHdr s).outcome := by
  rcases stageReadHdr_cases s with ⟨-, h⟩ | ⟨-, e, -, h⟩ | ⟨-, hd, -, h⟩ <;> rw [h] <;> rfl

theorem stageDecode_valid : (stageDecode s).state.valid = validAfter .decode s.valid (stageDecode s).outcome := by
  rcases stageDecode_state s with h | ⟨out, h⟩ | h <;> rw [h] <;> rfl

end Valid

end Sys2Proof.Machine
end

section
/-! PROOFS. The top-level commands (46_top.md rules R190 to R194, 60_exceptions.md rule R207): NOP, a composite as its stages
one after another, and VALID after every command. -/

namespace Sys2Proof.Machine

/-- Settles O7: NOP's stage has no effect, so its completion is all that happens. -/
theorem nopOnlyCompletes : Obligations.NopOnlyCompletes := exec_eq .nop

/-! ### A stage behind a completion

A single command starts from what the completion of the command before it left, a composite's stage from what the stage before
it left. The two differ in ENGINE and DONE, which no stage looks at and every completion writes (R206). -/

theorem complete_require_succeed {f : State → Stage} (hf : ∀ s, (f s.succeed).complete = (f s).complete) (mask : Word)
    (s : State) : (require mask f s.succeed).complete = (require mask f s).complete := by
  by_cases hm : s.valid.missing mask = 0
  · rw [require_ok hm, require_ok (s := s.succeed) hm, hf]
  · unfold require
    rw [if_neg hm, if_neg (show ¬s.succeed.valid.missing mask = 0 from hm)]
    rfl

theorem complete_encodeBody_succeed (s : State) : (encodeBody s.succeed).complete = (encodeBody s).complete := by
  unfold encodeBody State.succeed
  dsimp only [State.message]
  split
  · rfl
  split
  · rfl
  split <;> rfl

theorem complete_decodeBody_succeed (s : State) : (decodeBody s.succeed).complete = (decodeBody s).complete := by
  unfold decodeBody State.succeed
  dsimp only [State.payload]
  split <;> rfl

theorem exec_succeed_of_require {i : Instr} {mask : Word} {f : State → Stage} (hi : stageOf i = require mask f)
    (hf : ∀ s, (f s.succeed).complete = (f s).complete) (s : State) : exec i s.succeed = exec i s := by
  rw [exec_eq, exec_eq, hi, complete_require_succeed hf]

theorem exec_build_succeed (s : State) : exec .build s.succeed = exec .build s :=
  exec_succeed_of_require (f := buildBody) rfl (fun _ => rfl) s

theorem exec_gen_succeed (s : State) : exec .gen s.succeed = exec .gen s :=
  exec_succeed_of_require (f := genBody) rfl (fun _ => rfl) s

theorem exec_encode_succeed (s : State) : exec .encode s.succeed = exec .encode s :=
  exec_succeed_of_require rfl complete_encodeBody_succeed s

theorem exec_writeHdr_succeed (s : State) : exec .writeHdr s.succeed = exec .writeHdr s :=
  exec_succeed_of_require (f := writeHdrBody) rfl (fun _ => rfl) s

theorem exec_decode_succeed (s : State) : exec .decode s.succeed = exec .decode s :=
  exec_succeed_of_require rfl complete_decodeBody_succeed s

/-! ### The stages that cannot fail -/

theorem valid_of_stageCount_ok {s v : State} (h : stageCount s = .ok v) : v.valid = Valid.afterCount := by
  have hv := stageCount_valid s
  rw [h] at hv
  exact hv

theorem valid_of_stageReadHdr_ok {s v : State} (h : stageReadHdr s = .ok v) : v.valid = Valid.afterReadHdr := by
  have hv := stageReadHdr_valid s
  rw [h] at hv
  exact hv

theorem valid_of_stageEncode_ok {s v : State} (h : stageEncode s = .ok v) : v.valid = s.valid.afterEncode := by
  have hv := stageEncode_valid s
  rw [h] at hv
  exact hv

/-- Behind a successful COUNT, BUILD and GEN succeed (R191). -/
theorem buildGen_of_stageCount_ok {s a : State} (h : stageCount s = .ok a) :
    ∃ b c, stageBuild a = .ok b ∧ stageGen b = .ok c := by
  have hv := valid_of_stageCount_ok h
  exact ⟨_, _, stageBuild_of_ftV (hv ▸ rfl), stageGen_of_treeV rfl⟩

/-- Behind a successful READ_HDR, BUILD succeeds (R192, R193). -/
theorem build_of_stageReadHdr_ok {s a : State} (h : stageReadHdr s = .ok a) :
    ∃ b, stageBuild a = .ok b ∧ b.valid = Valid.afterReadHdr.afterBuild := by
  have hv := valid_of_stageReadHdr_ok h
  exact ⟨_, stageBuild_of_ftV (hv ▸ rfl), congrArg Valid.afterBuild hv⟩

/-- Behind a successful ENCODE, WRITE_HDR succeeds (R191). -/
theorem writeHdr_of_stageEncode_ok {s d : State} (h : stageEncode s = .ok d) : ∃ e, stageWriteHdr d = .ok e := by
  have hv := valid_of_stageEncode_ok h
  exact ⟨_, stageWriteHdr_of_encV (hv ▸ rfl)⟩

/-! ### The composites, by the stage that ends them (R194) -/

theorem stageCompress_of_count_err {s v : State} {e : CmdError} (h : stageCount s = .err v e) :
    stageCompress s = .err (v.setContLen 0) e := by
  rw [stageCompress, h]
  rfl

theorem stageCompress_of_count_ok {s a b c : State} (ha : stageCount s = .ok a) (hb : stageBuild a = .ok b)
    (hc : stageGen b = .ok c) :
    stageCompress s = ((stageEncode c).andThen stageWriteHdr).onError fun t => t.setContLen 0 := by
  rw [stageCompress, ha, Stage.andThen_ok, hb, Stage.andThen_ok, hc, Stage.andThen_ok]

theorem stageDecompress_of_readHdr_err {s v : State} {e : CmdError} (h : stageReadHdr s = .err v e) :
    stageDecompress s = .err (v.setMsgLen 0) e := by
  rw [stageDecompress, h]
  rfl

theorem stageDecompress_of_readHdr_ok {s a b : State} (ha : stageReadHdr s = .ok a) (hb : stageBuild a = .ok b) :
    stageDecompress s = (stageDecode b).onError fun t => t.setMsgLen 0 := by
  rw [stageDecompress, ha, Stage.andThen_ok, hb, Stage.andThen_ok]

theorem stageInspect_of_readHdr_err {s v : State} {e : CmdError} (h : stageReadHdr s = .err v e) :
    stageInspect s = .err v e := by
  rw [stageInspect, h, Stage.andThen_err]

theorem stageInspect_of_readHdr_ok {s a : State} (ha : stageReadHdr s = .ok a) : stageInspect s = stageBuild a := by
  rw [stageInspect, ha, Stage.andThen_ok]

/-! ### A command's completion, told by its stage's outcome -/

theorem exec_of_ok {i : Instr} {s v : State} (h : stageOf i s = .ok v) : exec i s = .next v.succeed := by
  rw [exec_eq, h, Stage.complete_ok]

theorem exec_of_err {i : Instr} {s v : State} {e : CmdError} (h : stageOf i s = .err v e) :
    exec i s = .next (v.fail e) := by
  rw [exec_eq, h, Stage.complete_err]

/-- From ERR = 0, a command whose stage succeeds leaves ERR = 0. -/
theorem err_of_stageOf_ok {i : Instr} {s v : State} (hs : s.err = false) (h : stageOf i s = .ok v) : v.err = false := by
  have herr := stageOf_sameErr i s
  rwa [h, Stage.state_ok, hs] at herr

section Composites

variable {s : State} (hs : s.err = false)

include hs

/-- R191, from ENCODE on, the stages in front of it having succeeded. -/
theorem compress_from_encode {a b c d e : State} (ha : stageCount s = .ok a) (hb : stageBuild a = .ok b)
    (hc : stageGen b = .ok c) (hd : exec .encode c = .next d) :
    (d.err = true → exec .compress s = .next { d with contLen := 0 }) ∧
    (d.err = false → exec .writeHdr d = .next e → exec .compress s = .next e) := by
  have hcomp := stageCompress_of_count_ok ha hb hc
  cases henc : stageEncode c with
  | err v x =>
    cases (exec_of_err (i := .encode) henc).symm.trans hd
    rw [henc] at hcomp
    exact ⟨fun _ => exec_of_err (i := .compress) hcomp, nofun⟩
  | ok v =>
    cases (exec_of_ok (i := .encode) henc).symm.trans hd
    obtain ⟨w, hw⟩ := writeHdr_of_stageEncode_ok henc
    have hv : v.err = false := err_of_stageOf_ok (i := .encode) (err_of_stageOf_ok (i := .gen)
      (err_of_stageOf_ok (i := .build) (err_of_stageOf_ok (i := .count) hs ha) hb) hc) henc
    refine ⟨fun h => absurd h (Bool.eq_false_iff.mp hv), fun _ he => ?_⟩
    rw [henc, Stage.andThen_ok, hw] at hcomp
    rw [exec_of_ok (i := .compress) hcomp, ← he, exec_writeHdr_succeed, exec_of_ok (i := .writeHdr) hw]

/-- R191: COMPRESS is COUNT, BUILD, GEN, ENCODE, WRITE_HDR. -/
theorem compress_runs_its_stages {a b c d e : State} (ha : exec .count s = .next a) :
    (a.err = true → exec .compress s = .next { a with contLen := 0 }) ∧
    (a.err = false → exec .build a = .next b → exec .gen b = .next c → exec .encode c = .next d →
      (d.err = true → exec .compress s = .next { d with contLen := 0 }) ∧
      (d.err = false → exec .writeHdr d = .next e → exec .compress s = .next e)) := by
  cases hcount : stageCount s with
  | err v x =>
    cases (exec_of_err (i := .count) hcount).symm.trans ha
    exact ⟨fun _ => exec_of_err (i := .compress) (stageCompress_of_count_err hcount), nofun⟩
  | ok v =>
    cases (exec_of_ok (i := .count) hcount).symm.trans ha
    have hv : v.err = false := err_of_stageOf_ok (i := .count) hs hcount
    obtain ⟨w, x, hbuild, hgen⟩ := buildGen_of_stageCount_ok hcount
    refine ⟨fun h => absurd h (Bool.eq_false_iff.mp hv), fun _ hb hc hd => ?_⟩
    rw [exec_build_succeed, exec_of_ok (i := .build) hbuild] at hb
    cases hb
    rw [exec_gen_succeed, exec_of_ok (i := .gen) hgen] at hc
    cases hc
    rw [exec_encode_succeed] at hd
    exact compress_from_encode hs hcount hbuild hgen hd

/-- R192, from DECODE on, the stages in front of it having succeeded. -/
theorem decompress_from_decode {a b c : State} (ha : stageReadHdr s = .ok a) (hb : stageBuild a = .ok b)
    (hc : exec .decode b = .next c) :
    (c.err = true → exec .decompress s = .next { c with msgLen := 0 }) ∧
    (c.err = false → exec .decompress s = .next c) := by
  have hcomp := stageDecompress_of_readHdr_ok ha hb
  cases hdec : stageDecode b with
  | err v x =>
    cases (exec_of_err (i := .decode) hdec).symm.trans hc
    rw [hdec] at hcomp
    exact ⟨fun _ => exec_of_err (i := .decompress) hcomp, nofun⟩
  | ok v =>
    cases (exec_of_ok (i := .decode) hdec).symm.trans hc
    have hv : v.err = false := err_of_stageOf_ok (i := .decode) (err_of_stageOf_ok (i := .build)
      (err_of_stageOf_ok (i := .readHdr) hs ha) hb) hdec
    rw [hdec] at hcomp
    exact ⟨fun h => absurd h (Bool.eq_false_iff.mp hv), fun _ => exec_of_ok (i := .decompress) hcomp⟩

/-- R192: DECOMPRESS is READ_HDR, BUILD, DECODE. -/
theorem decompress_runs_its_stages {a b c : State} (ha : exec .readHdr s = .next a) :
    (a.err = true → exec .decompress s = .next { a with msgLen := 0 }) ∧
    (a.err = false → exec .build a = .next b → exec .decode b = .next c →
      (c.err = true → exec .decompress s = .next { c with msgLen := 0 }) ∧
      (c.err = false → exec .decompress s = .next c)) := by
  cases hread : stageReadHdr s with
  | err v x =>
    cases (exec_of_err (i := .readHdr) hread).symm.trans ha
    exact ⟨fun _ => exec_of_err (i := .decompress) (stageDecompress_of_readHdr_err hread), nofun⟩
  | ok v =>
    cases (exec_of_ok (i := .readHdr) hread).symm.trans ha
    have hv : v.err = false := err_of_stageOf_ok (i := .readHdr) hs hread
    obtain ⟨w, hbuild, -⟩ := build_of_stageReadHdr_ok hread
    refine ⟨fun h => absurd h (Bool.eq_false_iff.mp hv), fun _ hb hc => ?_⟩
    rw [exec_build_succeed, exec_of_ok (i := .build) hbuild] at hb
    cases hb
    rw [exec_decode_succeed] at hc
    exact decompress_from_decode hs hread hbuild hc

/-- R193: INSPECT is READ_HDR, BUILD. -/
theorem inspect_runs_its_stages {a b : State} (ha : exec .readHdr s = .next a) :
    (a.err = true → exec .inspect s = .next a) ∧
    (a.err = false → exec .build a = .next b → exec .inspect s = .next b) := by
  cases hread : stageReadHdr s with
  | err v x =>
    cases (exec_of_err (i := .readHdr) hread).symm.trans ha
    exact ⟨fun _ => exec_of_err (i := .inspect) (stageInspect_of_readHdr_err hread), nofun⟩
  | ok v =>
    cases (exec_of_ok (i := .readHdr) hread).symm.trans ha
    have hv : v.err = false := err_of_stageOf_ok (i := .readHdr) hs hread
    refine ⟨fun h => absurd h (Bool.eq_false_iff.mp hv), fun _ hb => ?_⟩
    have hinsp : stageOf .inspect s = stageOf .build v := stageInspect_of_readHdr_ok hread
    rw [← hb, exec_build_succeed, exec_eq, hinsp, exec_eq]

end Composites

/-- Settles O33, composite by composite: a stage behind a completion does what it does inside the composite, and the stages that
cannot fail there do not. -/
theorem compositesRunTheirStagesInOrder : Obligations.CompositesRunTheirStagesInOrder := fun _ hs =>
  ⟨fun _ _ _ _ _ => compress_runs_its_stages hs, fun _ _ _ => decompress_runs_its_stages hs,
    fun _ _ => inspect_runs_its_stages hs⟩

/-! ### VALID after a composite -/

/-- Behind COUNT, BUILD and GEN of a message in bounds, ENCODE can only run out of room (R163, R191). -/
theorem stageEncode_codedFor {s : State} (hl : s.msgLen.toNat ≤ s.caps.msgCap)
    (hw : ∀ m ∈ s.message, tooWide s.sym8 m = false) (hc : ∀ m, s.message.count m ≤ 65535) :
    (∃ info, stageEncode (s.codedFor (countFrequencies s.message)) =
      encodeFails (s.codedFor (countFrequencies s.message)) { code := .capacity, info := info }) ∨
    ∃ total, stageEncode (s.codedFor (countFrequencies s.message)) =
      encodeWrite (s.codedFor (countFrequencies s.message)) total := by
  have hcodes : ∀ m ∈ (s.codedFor (countFrequencies s.message)).message,
      tooWide (s.codedFor (countFrequencies s.message)).sym8 m = false ∧
        (ctAt (s.codedFor (countFrequencies s.message)).tables.ct m).isSome = true := fun m hm =>
    ⟨hw m hm, s.tables.codedFor_isSome (countFrequencies_nodup s.message) (countFrequencies_bounds_of_count hc)
      (mem_syms_countFrequencies hm)⟩
  rw [stageEncode, require_ok ((Valid.missing_ct _).mpr rfl), encodeBody, if_neg (Nat.not_lt.mpr (by exact hl)),
    sizeLoop_of_codes hcodes]
  dsimp only
  split
  · exact .inl ⟨_, rfl⟩
  · exact .inr ⟨_, rfl⟩

section Valid

variable (s : State)

/-- R191: COUNT's failure clears VALID, and behind a COUNT that succeeds only CAPACITY can end COMPRESS. -/
theorem stageCompress_valid :
    (stageCompress s).state.valid = validAfter .compress s.valid (stageCompress s).outcome := by
  rcases stageCount_cases s with ⟨-, h⟩ | ⟨-, e, he, h⟩ | ⟨hl, hloop, -⟩
  · rw [stageCompress_of_count_err h]
    rfl
  · rw [stageCompress_of_count_err h]
    rcases countLoop_error_code he with hc | hc <;> rw [Stage.outcome, hc] <;> rfl
  · have hw := (countLoop_ok hloop).2
    have hc : ∀ m, s.message.count m ≤ 65535 := fun m =>
      countOf_countFrequencies s.message m ▸ countLoop_bound hloop (fun _ => Nat.zero_le _) m
    rw [stageCompress, countBuildGen_of_bounds hl hw hc, Stage.andThen_ok]
    rcases stageEncode_codedFor hl hw hc with ⟨info, h⟩ | ⟨total, h⟩ <;> rw [h]
    · rfl
    · rw [encodeWrite, Stage.andThen_ok, stageWriteHdr_of_encV rfl]
      rfl

/-- R192: READ_HDR's failure clears VALID, DECODE's keeps it. -/
theorem stageDecompress_valid :
    (stageDecompress s).state.valid = validAfter .decompress s.valid (stageDecompress s).outcome := by
  rcases stageReadHdr_cases s with ⟨-, h⟩ | ⟨-, e, he, h⟩ | ⟨-, hd, -, h⟩
  · rw [stageDecompress_of_readHdr_err h]
    rfl
  · rw [stageDecompress_of_readHdr_err h, Stage.outcome, parseHeader_error_code he]
    rfl
  · obtain ⟨b, hb, hv⟩ := build_of_stageReadHdr_ok h
    rw [stageDecompress_of_readHdr_ok h hb, stageDecode_of_treeV_hdrV (hv ▸ rfl) (hv ▸ rfl)]
    rcases decodeBody_cases b with ⟨out, -, hb⟩ | ⟨e, he, hb⟩ <;> rw [hb]
    · exact hv
    · have hans := decodeMessage_answer b.caps.msgCap b.tables (unpack b.payload b.tables.pad.toNat)
      rw [he] at hans
      rcases hans with hc | hc <;> rw [decodeFails, Stage.onError_err, Stage.outcome, hc] <;> exact hv

/-- R193: only READ_HDR can fail. -/
theorem stageInspect_valid :
    (stageInspect s).state.valid = validAfter .inspect s.valid (stageInspect s).outcome := by
  have hread := stageReadHdr_valid s
  cases h : stageReadHdr s with
  | err v e =>
    rw [h] at hread
    rw [stageInspect_of_readHdr_err h]
    exact hread
  | ok v =>
    obtain ⟨b, hb, hv⟩ := build_of_stageReadHdr_ok h
    rw [stageInspect_of_readHdr_ok h, hb]
    exact hv

/-- R207's table, for the stage a command runs. -/
theorem stageOf_valid (i : Instr) : (stageOf i s).state.valid = validAfter i s.valid (stageOf i s).outcome := by
  cases i with
  | nop => rfl
  | count => exact stageCount_valid s
  | build => exact stageBuild_valid s
  | gen => exact stageGen_valid s
  | encode => exact stageEncode_valid s
  | writeHdr => exact stageWriteHdr_valid s
  | readHdr => exact stageReadHdr_valid s
  | decode => exact stageDecode_valid s
  | compress => exact stageCompress_valid s
  | decompress => exact stageDecompress_valid s
  | inspect => exact stageInspect_valid s

end Valid

/-- Settles O37: the completion changes no VALID bit and tells the stage's outcome. -/
theorem validFollowsTheSummaryTable : Obligations.ValidFollowsTheSummaryTable := by
  intro i s t hs h
  rw [exec_eq] at h
  cases h
  rw [Stage.complete_valid, Stage.outcome_of_complete ((stageOf_sameErr i s).trans hs), stageOf_valid]

end Sys2Proof.Machine
end

section
/-! PROOFS. Errors, status and progress (60_exceptions.md): which errors each command can raise (R200), NOT_READY (R203), a CMD
write while BUSY (R204), no stop from a consistent engine, and every pending input and command finished in bounded time (R206). -/

namespace Sys2Proof.Machine

/-! ### The errors each command can raise (R200) -/

/-- R200's column "raised by", read command by command. -/
def commandErrors : Instr → List ErrorCode
  | .nop        => []
  | .count      => [.badLength, .symbolWidth, .freqOverflow]
  | .build      => [.notReady]
  | .gen        => [.notReady]
  | .encode     => [.notReady, .badLength, .symbolWidth, .unknownSymbol, .capacity]
  | .writeHdr   => [.notReady]
  | .readHdr    => [.badLength, .corruptHeader]
  | .decode     => [.notReady, .malformedStream, .capacity]
  | .compress   => [.badLength, .symbolWidth, .freqOverflow, .capacity]
  | .decompress => [.badLength, .corruptHeader, .malformedStream, .capacity]
  | .inspect    => [.badLength, .corruptHeader]

/-- A stage that fails does so with one of the errors of `l`. -/
def Stage.raises (r : Stage) (l : List ErrorCode) : Prop := ∀ c ∈ r.outcome, c ∈ l

theorem Stage.raises_ok (s : State) (l : List ErrorCode) : (Stage.ok s).raises l := nofun

@[simp] theorem Stage.raises_err {s : State} {e : CmdError} {l : List ErrorCode} :
    (Stage.err s e).raises l ↔ e.code ∈ l := by
  simp [Stage.raises, Stage.outcome]

theorem Stage.raises_mono {r : Stage} {l l' : List ErrorCode} (hl : l ⊆ l') (h : r.raises l) : r.raises l' :=
  fun c hc => hl (h c hc)

/-- The second stage matters only where the first succeeds. -/
theorem Stage.raises_andThen {r : Stage} {f : State → Stage} {l : List ErrorCode} (hr : r.raises l)
    (hf : ∀ v, r = .ok v → (f v).raises l) : (r.andThen f).raises l := by
  cases r with
  | ok v => exact hf v rfl
  | err v e => exact hr

/-- A composite's own failure effect changes no error (R194). -/
@[simp] theorem Stage.raises_onError {r : Stage} {f : State → State} {l : List ErrorCode} :
    (r.onError f).raises l ↔ r.raises l := by
  cases r <;> rfl

/-- R131: a COUNT that succeeds found the message in bounds. -/
theorem bounds_of_stageCount_ok {s v : State} (h : stageCount s = .ok v) :
    s.msgLen.toNat ≤ s.caps.msgCap ∧ (∀ m ∈ s.message, tooWide s.sym8 m = false) ∧ ∀ m, s.message.count m ≤ 65535 := by
  rcases stageCount_cases s with ⟨-, h'⟩ | ⟨-, e, -, h'⟩ | ⟨hl, hloop, -⟩
  · cases h.symm.trans h'
  · cases h.symm.trans h'
  · exact ⟨hl, (countLoop_ok hloop).2, fun m =>
      countOf_countFrequencies s.message m ▸ countLoop_bound hloop (fun _ => Nat.zero_le _) m⟩

section Raises

variable (s : State)

theorem stageCount_raises : (stageCount s).raises (commandErrors .count) := by
  rcases stageCount_cases s with ⟨-, h⟩ | ⟨-, e, he, h⟩ | ⟨-, -, h⟩ <;> rw [h]
  · simp [loseTablesWith, commandErrors]
  · rcases countLoop_error_code he with hc | hc <;> simp [loseTablesWith, commandErrors, hc]
  · exact Stage.raises_ok _ _

theorem stageBuild_raises : (stageBuild s).raises (commandErrors .build) := by
  rcases stageBuild_cases s with ⟨-, h⟩ | ⟨-, h⟩ <;> rw [h]
  · exact Stage.raises_ok _ _
  · simp [commandErrors]

theorem stageGen_raises : (stageGen s).raises (commandErrors .gen) := by
  rcases stageGen_cases s with ⟨-, h⟩ | ⟨-, h⟩ <;> rw [h]
  · exact Stage.raises_ok _ _
  · simp [commandErrors]

theorem encodeBody_raises : (encodeBody s).raises (commandErrors .encode) := by
  unfold encodeBody
  split
  · simp [encodeFails, commandErrors]
  split
  · rename_i e he
    rcases sizeLoop_error_code he with hc | hc <;> simp [encodeFails, commandErrors, hc]
  dsimp only
  split
  · simp [encodeFails, commandErrors]
  · exact Stage.raises_ok _ _

theorem stageEncode_raises : (stageEncode s).raises (commandErrors .encode) := by
  rcases stageEncode_cases s with ⟨-, h⟩ | ⟨-, h⟩ <;> rw [h]
  · exact encodeBody_raises s
  · simp [commandErrors]

theorem stageWriteHdr_raises : (stageWriteHdr s).raises (commandErrors .writeHdr) := by
  rcases stageWriteHdr_cases s with ⟨-, h⟩ | ⟨-, h⟩ <;> rw [h]
  · exact Stage.raises_ok _ _
  · simp [commandErrors]

theorem stageReadHdr_raises : (stageReadHdr s).raises (commandErrors .readHdr) := by
  rcases stageReadHdr_cases s with ⟨-, h⟩ | ⟨-, e, he, h⟩ | ⟨-, hd, -, h⟩ <;> rw [h]
  · simp [loseTablesWith, commandErrors]
  · simp [loseTablesWith, commandErrors, parseHeader_error_code he]
  · exact Stage.raises_ok _ _

/-- Past its `require`, DECODE fails with the loop's errors only (R183). -/
theorem decodeBody_raises : (decodeBody s).raises [.malformedStream, .capacity] := by
  have hans := decodeMessage_answer s.caps.msgCap s.tables (unpack s.payload s.tables.pad.toNat)
  rcases decodeBody_cases s with ⟨out, -, hb⟩ | ⟨e, he, hb⟩ <;> rw [hb]
  · exact Stage.raises_ok _ _
  · rw [he] at hans
    simpa [decodeFails, decodeAnswer] using hans

theorem stageDecode_raises : (stageDecode s).raises (commandErrors .decode) := by
  rcases stageDecode_cases s with ⟨-, -, h⟩ | ⟨-, h⟩ <;> rw [h]
  · exact Stage.raises_mono (by decide) (decodeBody_raises s)
  · simp [commandErrors]

/-- R191: COUNT's errors, or ENCODE's CAPACITY; the other stages find what they require. -/
theorem stageCompress_raises : (stageCompress s).raises (commandErrors .compress) := by
  have hcount := stageCount_raises s
  cases h : stageCount s with
  | err v e =>
    rw [h, Stage.raises_err] at hcount
    rw [stageCompress_of_count_err h, Stage.raises_err]
    exact List.mem_append_left [.capacity] hcount
  | ok v =>
    obtain ⟨hl, hw, hc⟩ := bounds_of_stageCount_ok h
    rw [stageCompress, countBuildGen_of_bounds hl hw hc, Stage.andThen_ok, Stage.raises_onError]
    refine Stage.raises_andThen ?_ fun u hu => ?_
    · rcases stageEncode_codedFor hl hw hc with ⟨info, he⟩ | ⟨total, he⟩ <;> rw [he]
      · simp [encodeFails, commandErrors]
      · exact Stage.raises_ok _ _
    · obtain ⟨w, hhdr⟩ := writeHdr_of_stageEncode_ok hu
      rw [hhdr]
      exact Stage.raises_ok _ _

/-- R193: READ_HDR's errors; BUILD finds the table. -/
theorem stageInspect_raises : (stageInspect s).raises (commandErrors .inspect) := by
  refine Stage.raises_andThen (stageReadHdr_raises s) fun v h => ?_
  obtain ⟨b, hb, -⟩ := build_of_stageReadHdr_ok h
  rw [hb]
  exact Stage.raises_ok _ _

/-- R192: INSPECT's errors, or DECODE's past its `require`. -/
theorem stageDecompress_raises : (stageDecompress s).raises (commandErrors .decompress) := by
  refine Stage.raises_onError.mpr (Stage.raises_andThen (Stage.raises_mono (by decide) (stageInspect_raises s))
    fun v h => ?_)
  obtain ⟨u, hu, hbuild⟩ := Stage.andThen_eq_ok h
  obtain ⟨b, hb, hv⟩ := build_of_stageReadHdr_ok hu
  cases hbuild.symm.trans hb
  rw [stageDecode_of_treeV_hdrV (hv ▸ rfl) (hv ▸ rfl)]
  exact Stage.raises_mono (by decide) (decodeBody_raises v)

/-- R200's table, for the stage a command runs. -/
theorem stageOf_raises (i : Instr) : (stageOf i s).raises (commandErrors i) := by
  cases i with
  | nop => exact Stage.raises_ok _ _
  | count => exact stageCount_raises s
  | build => exact stageBuild_raises s
  | gen => exact stageGen_raises s
  | encode => exact stageEncode_raises s
  | writeHdr => exact stageWriteHdr_raises s
  | readHdr => exact stageReadHdr_raises s
  | decode => exact stageDecode_raises s
  | compress => exact stageCompress_raises s
  | decompress => exact stageDecompress_raises s
  | inspect => exact stageInspect_raises s

end Raises

/-- No stage touches the error fields: only a failing completion sets them (R206). -/
theorem stageOf_sameErrorFields (i : Instr) (s : State) :
    (stageOf i s).state.err = s.err ∧ (stageOf i s).state.errCode = s.errCode ∧
      (stageOf i s).state.errInfo = s.errInfo :=
  TableBlind.stageOf (P := fun t => t.err = s.err ∧ t.errCode = s.errCode ∧ t.errInfo = s.errInfo)
    ⟨fun _ _ h => h, fun _ _ h => h, fun _ h => h⟩ ⟨rfl, rfl, rfl⟩ i (fun _ => ⟨fun _ _ h => h, fun _ _ h => h⟩)
    (fun _ _ _ h => h) fun _ _ _ h => h

/-- R206: a command keeps the error fields, or records one of its errors. -/
theorem exec_errorFields (i : Instr) (s : State) : ∃ t, exec i s = .next t ∧ t.engine = .idle ∧ t.done = true ∧
    ((t.err = s.err ∧ t.errCode = s.errCode ∧ t.errInfo = s.errInfo) ∨ (t.err = true ∧ t.errCode ∈ commandErrors i)) := by
  refine ⟨_, exec_eq i s, Stage.complete_engine _, Stage.complete_done _, ?_⟩
  have hsame := stageOf_sameErrorFields i s
  have hraises := stageOf_raises s i
  cases h : stageOf i s with
  | ok v =>
    rw [h] at hsame
    exact .inl hsame
  | err v e =>
    rw [h, Stage.raises_err] at hraises
    exact .inr ⟨rfl, hraises⟩

/-- Settles O6: neither NONE nor ILLEGAL_CMD is an error a command raises (`commandErrors`). -/
theorem everyCommandCompletes : Obligations.EveryCommandCompletes := by
  intro i s
  obtain ⟨t, ht, hidle, hdone, herr⟩ := exec_errorFields i s
  have hnone : .none ∉ commandErrors i := by cases i <;> decide
  have hillegal : .illegalCmd ∉ commandErrors i := by cases i <;> decide
  exact ⟨t, ht, hidle, hdone, herr.imp_right fun ⟨he, hc⟩ =>
    ⟨he, fun h => hnone (h ▸ hc), fun h => hillegal (h ▸ hc)⟩⟩

/-! ### NOT_READY (R203) -/

/-- The commands of R203's table are a `require` of their mask in front of the rest. -/
theorem stageOf_eq_require {i : Instr} {mask : Word}
    (h : (i, mask) ∈ [(Instr.build, 0x01#32), (.gen, 0x02#32), (.encode, 0x04#32), (.writeHdr, 0x08#32),
      (.decode, 0x12#32)]) : ∃ f, stageOf i = require mask f := by
  simp only [List.mem_cons, Prod.mk.injEq, List.not_mem_nil, or_false] at h
  rcases h with ⟨rfl, rfl⟩ | ⟨rfl, rfl⟩ | ⟨rfl, rfl⟩ | ⟨rfl, rfl⟩ | ⟨rfl, rfl⟩
  · exact ⟨buildBody, rfl⟩
  · exact ⟨genBody, rfl⟩
  · exact ⟨encodeBody, rfl⟩
  · exact ⟨writeHdrBody, rfl⟩
  · exact ⟨decodeBody, rfl⟩

/-- Settles O36: a failing `require` has no effect of its own, and the other commands' errors leave NOT_READY out
(`commandErrors`). -/
theorem missingValidBitsReportNotReady : Obligations.MissingValidBitsReportNotReady := by
  refine ⟨fun s i mask hi hm => ?_, fun s t i hi ht hs hc => ?_⟩
  · obtain ⟨f, hf⟩ := stageOf_eq_require hi
    rcases require_cases mask f s with ⟨h0, -⟩ | ⟨-, hr⟩
    · exact absurd h0 hm
    · exact exec_of_err ((congrFun hf s).trans hr)
  · have hready : ∀ i ∈ [Instr.nop, .count, .readHdr, .compress, .decompress, .inspect],
      .notReady ∉ commandErrors i := by decide
    obtain ⟨t', ht', -, -, herr⟩ := exec_errorFields i s
    cases ht.symm.trans ht'
    rcases herr with ⟨-, hsame, -⟩ | ⟨-, hmem⟩
    · exact hs (hsame.symm.trans hc)
    · exact hready i hi (hc ▸ hmem)

/-! ### A CMD write while BUSY (R204) -/

/-- Settles O39: the place of 0x008 is CMD, whose write while BUSY sets REJ alone. -/
theorem cmdWriteWhileBusyIsRejected : Obligations.CmdWriteWhileBusyIsRejected := by
  intro s c v rest hc hev
  have hb : (s.setEvents rest).busy = true := State.busy_busy hc
  rw [step_wordWrite hev (by decide), show placeOf 0x008 = .reg .cmd from rfl, State.placeWrite_cmd_of_busy hb]
  exact ⟨_, rfl, rfl, rfl⟩

/-! ### No stop from a consistent engine (R205, R245) -/

/-- With a legal code in ENGINE the engine's turn is taken. -/
theorem engineTurn_of_engineOk {s : State} (h : s.engineOk) (rest : List Event) : ∃ t, engineTurn s rest = .next t := by
  unfold engineTurn
  cases he : s.engine with
  | idle => exact ⟨_, rfl⟩
  | busy c =>
    rw [State.engineOk, he] at h
    obtain ⟨hlegal, -⟩ := h
    rcases decodeOpc_cases c with ⟨-, i, hd, -⟩ | ⟨hillegal, -⟩
    · exact ⟨_, by simp only [hd]; exact exec_eq i s⟩
    · exact absurd (hlegal.symm.trans hillegal) nofun

/-- A consistent engine's step is refused at a forbidden action and taken at any other input. -/
theorem step_of_engineOk {s : State} (h : s.engineOk) :
    (s.events.head? = some .forbidden ∧ step s = .refused .forbiddenHost) ∨ ∃ t, step s = .next t := by
  unfold step
  match s.events with
  | []                => exact .inr (engineTurn_of_engineOk h [])
  | .access _ :: _    => exact .inr ⟨_, rfl⟩
  | .wait :: rest     => exact .inr (engineTurn_of_engineOk h rest)
  | .reset :: _       => exact .inr ⟨_, rfl⟩
  | .forbidden :: _   => exact .inl ⟨rfl, rfl⟩

/-- Settles O56: the two answers of `step_of_engineOk`. -/
theorem consistentStatesNeverStop : Obligations.ConsistentStatesNeverStop := by
  intro s hs
  rcases step_of_engineOk hs with ⟨hf, hst⟩ | ⟨t, hst⟩ <;> rw [hst]
  · exact ⟨nofun, fun r hr => ⟨hf, (Host.Outcome.refused.inj hr).symm⟩⟩
  · exact ⟨nofun, nofun⟩

/-! ### Progress (R206, R232) -/

/-- How many steps suffice: each input takes one, and each may start a command, which takes one more. -/
def State.workLeft (s : State) : Nat := 2 * s.events.length + s.busy.toNat

theorem State.placeWrite_events (s : State) (n : Nat) (v : Word) (p : Place) :
    (s.placeWrite n v p).events = s.events := by
  rcases s.placeWrite_cases n v p with hw | hw | hw | hw | ⟨-, hw | hw | hw | ⟨o, hw⟩ | ⟨o, hw⟩⟩ <;> rw [hw]
  · unfold State.writeCtrl; split <;> rfl
  · rcases s.writeCmd_cases v with ⟨-, hc⟩ | ⟨c, -, hc⟩ <;> rw [hc]
    · rcases s.accept_cases v with ⟨-, ha⟩ | ⟨-, ha⟩ <;> rw [ha] <;> rfl
    · rfl
  all_goals rfl

theorem State.busAccess_events (s : State) (a : Access) : (s.busAccess a).events = s.events := by
  rcases s.busAccess_cases a with ⟨-, ha⟩ | ⟨-, -, w, ha | ha⟩ | ⟨-, -, n, -, ha⟩ <;> rw [ha]
  · rfl
  · rfl
  · rfl
  · exact s.placeWrite_events n a.wdata (placeOf a.addr)

/-- A step takes the next input, if there is one, or completes the running command and takes none. -/
theorem step_progress {s t : State} (h : step s = .next t) :
    (t.events = s.events.tail ∧ (s.events = [] → t.busy = false)) ∨
    (s.busy = true ∧ t.busy = false ∧ t.events = s.events) := by
  rcases step_cases h with ⟨a, rest, hev, rfl⟩ | ⟨rest, hev, rfl⟩ | ⟨hi, rfl⟩ | ⟨c, i, hc, -, rfl⟩
  · exact .inl ⟨by rw [State.busAccess_events, hev]; rfl, fun h0 => absurd (hev.symm.trans h0) nofun⟩
  · exact .inl ⟨by rw [State.resetBlock_events, hev]; rfl, fun h0 => absurd (hev.symm.trans h0) nofun⟩
  · exact .inl ⟨rfl, fun _ => State.busy_idle hi⟩
  · obtain ⟨-, -, -, -, -, -, -, hev⟩ := stageOf_sameControl i s
    exact .inr ⟨State.busy_busy hc, State.busy_idle (Stage.complete_engine _), (Stage.complete_events _).trans hev⟩

theorem workLeft_of_step {s t : State} (h : step s = .next t) : t.workLeft ≤ s.workLeft - 1 := by
  unfold State.workLeft
  rcases step_progress h with ⟨hev, hidle⟩ | ⟨hs, ht, hev⟩
  · rw [hev]
    cases he : s.events with
    | nil => simp [hidle he]
    | cons e rest =>
      have := t.busy.toNat_le
      rw [List.tail_cons, List.length_cons]
      omega
  · rw [hev, hs, ht]
    rfl

theorem events_subset_of_step {s t : State} (h : step s = .next t) : t.events ⊆ s.events := by
  rcases step_progress h with ⟨hev, -⟩ | ⟨-, -, hev⟩ <;> rw [hev]
  · exact List.tail_subset _
  · exact List.Subset.refl _

theorem State.idle_of_workLeft_eq_zero {s : State} (h : s.workLeft = 0) : s.engine = .idle ∧ s.events = [] := by
  obtain ⟨hev, hb⟩ := Nat.add_eq_zero_iff.mp h
  refine ⟨?_, List.eq_nil_of_length_eq_zero (by omega)⟩
  cases he : s.engine with
  | idle => rfl
  | busy c =>
    rw [State.busy_busy he] at hb
    cases hb

/-- A run goes on from where its first step leads. -/
theorem run_succ_of_next {M : Host.Core} {s t : M.State} (h : M.step s = .next t) (k : Nat) :
    M.run (k + 1) s = M.run k t := by
  simp only [Host.Core.run, h]

/-- A run of as many steps as there is work, or more, finishes it. -/
theorem run_finishes (k : Nat) {s : State} (hs : s.engineOk) (hf : Event.forbidden ∉ s.events) (hk : s.workLeft ≤ k) :
    ∃ t, Sys2Proof.core.run k s = .next t ∧ t.engine = .idle ∧ t.events = [] := by
  induction k generalizing s with
  | zero => exact ⟨s, rfl, State.idle_of_workLeft_eq_zero (Nat.le_zero.mp hk)⟩
  | succ k ih =>
    rcases step_of_engineOk hs with ⟨hhead, -⟩ | ⟨t, hst⟩
    · exact absurd (List.mem_of_head? hhead) hf
    · rw [run_succ_of_next (M := Sys2Proof.core) hst]
      have hwork := workLeft_of_step hst
      exact ih (stepKeepsTheEngineConsistent s t hs hst) (fun h => hf (events_subset_of_step hst h)) (by omega)

/-- Settles O57: the work left is at most twice the pending inputs and one (`State.workLeft`). -/
theorem everyCommandIsEventuallyDone : Obligations.EveryCommandIsEventuallyDone := fun s hs hf =>
  run_finishes _ hs hf (Nat.add_le_add_left s.busy.toNat_le _)

end Sys2Proof.Machine
end
